-- ==== Sys2Proof/Word.lean ====
section
/-! DEFINITION. The words of the link, the names (numbers) of the part's fixed things, complex values, and the
operand records that the commands of Sys2Proof/Syntax.lean carry. -/

namespace Sys2Proof

/-- The data value of one Host Link character (R180). -/
abbrev Byte := BitVec 8

/-- A tick value, modular over 2^32 (00_scope.md 5.3, R29). -/
abbrev Tick := BitVec 32

/-- A 48-bit modem identity (00_scope.md 6, R116). -/
abbrev Token := BitVec 48

/-- The channels are numbered 0..3 (00_scope.md 5.6). -/
abbrev Channel := Fin 4

/-- The engines E0, E1 and E2 (R86). -/
abbrev EngineId := Fin 3

/-- The slots are numbered 0..1023 (R1). -/
abbrev Slot := Fin 1024

/-- The index of the SID Map, 0..4,095 (R13). -/
abbrev Sid := Fin 4096

/-- The descriptors are indexed 0..127 (R128). -/
abbrev DescriptorId := Fin 128

/-- A complex value: two signed fractions with 15 fraction bits, -1..32767/32768, each held as the value times
32768 in two's complement (00_scope.md 5.4, R197: every 16-bit value is a valid part). -/
structure Cplx where
  re : BitVec 16
  im : BitVec 16
  deriving DecidableEq, Repr

/-- The complex value 0. -/
def Cplx.zero : Cplx := ⟨0, 0⟩

/-- The unit value 32767/32768 in the real part, 0 in the imaginary part (00_scope.md 5.4, R6). -/
def Cplx.unit : Cplx := ⟨0x7FFF, 0⟩

/-- The levels of the five strap pins as RESET is released (R180, R192). -/
structure Straps where
  address : BitVec 3
  rate : BitVec 2
  deriving DecidableEq, Repr

/-- The fault of a faulty character: a low stop bit is FRAMING, whatever the parity; otherwise PARITY (R181). -/
inductive CharacterFault where
  | framing
  | parity
  deriving DecidableEq, Repr

/-- The status codes of R188. -/
inductive Status where
  | ok | empty | notFound | busy | full | inUse | range | order | late | overlap | state
  | checksum | unknown | length
  deriving DecidableEq, Repr

/-- The coefficient set field of a request as it is sent (R197): the header byte's parts, the main tap byte and the
coefficients.
`absent low`: header bit 7 set, `low` its bits 0..6.
`present code reserved main coefficients`: header bit 7 clear, `code` its bits 0..1, `reserved` its bits 2..6. -/
inductive CoefficientField where
  | absent (low : BitVec 7)
  | present (code : BitVec 2) (reserved : BitVec 5) (main : Byte) (coefficients : List Cplx)
  deriving DecidableEq, Repr

/-- The number of taps a tap count code stands for: 1 for 8, 2 for 16, 3 for 24 and 0 for 32 (R197). -/
def tapsOfCode (code : BitVec 2) : Nat :=
  if code = 1 then 8 else if code = 2 then 16 else if code = 3 then 24 else 32

/-- One setting of WRITE STATION as it is sent: the field its identifier names and the value (R199).
`unknown identifier rest`: the identifier lies outside 1..10, the reading ends there, and `rest` are the body
characters that follow it. -/
inductive Setting where
  | channel (value : Byte)
  | timingEstimate (value : BitVec 24)
  | powerEstimate (value : BitVec 16)
  | frequencyEstimate (value : BitVec 16)
  | advertisedTiming (value : BitVec 24)
  | advertisedPower (value : BitVec 16)
  | advertisedFrequency (value : BitVec 16)
  | coefficients (field : CoefficientField)
  | missReload (value : Byte)
  | stepClass (value : Byte)
  | unknown (identifier : Byte) (rest : List Byte)
  deriving DecidableEq, Repr

/-- The body of ADMIT as it is sent (R199). `reserved` are bits 2..7 of the presence byte; its bits 0 and 1 say
whether `vector` and `token` are present. -/
structure AdmitBody where
  sid : BitVec 16
  channel : Byte
  missReload : Byte
  reserved : BitVec 6
  vector : Option Byte
  token : Option Token
  coefficients : CoefficientField
  deriving DecidableEq, Repr

/-- The descriptor block as it is sent (R197, 11 bytes). -/
structure DescriptorBlock where
  flags : Byte
  count : Byte
  mask : Byte
  timingThreshold : BitVec 16
  powerThreshold : Byte
  frequencyThreshold : BitVec 16
  passes : Byte
  coarseShift : Byte
  fineShift : Byte
  deriving DecidableEq, Repr

end Sys2Proof
end

