-- ==== Sys2Proof/Syntax.lean ====
section
/-! DEFINITION. The commands of the EQ-4100: one constructor for each row of spec/opcode_table.json.
A request carries the fields of its body at their sent widths (R196 to R199), so that a value out of range is an
operand like any other and is refused by the rule that owns the request. -/

namespace Sys2Proof

/-- The 42 commands. -/
inductive Instr where
  -- RESET held low and then released with the straps at these levels (R192)
  | partReset (straps : Straps)
  -- power-up, the straps sampled as the part leaves reset (R192, R180)
  | powerUp (straps : Straps)
  -- one rising edge of TICK (R29)
  | tick
  -- one SYNC pulse (R32)
  | sync
  -- the Time Base raises window open on a channel (R36, R37)
  | windowOpen (channel : Channel)
  -- the Time Base raises window close on a channel (R38, R81)
  | windowClose (channel : Channel)
  -- the Time Base raises grace expiry on a channel (R39, R82)
  | graceExpiry (channel : Channel)
  -- the Time Base raises map end on a channel (R40, R54)
  | mapEnd (channel : Channel)
  -- front end: the start of a burst's preamble with its fine phase 0..63 (R64)
  | detect (channel : Channel) (finePhase : BitVec 6)
  -- front end: the end of the preamble (R68)
  | preambleDone (channel : Channel)
  -- front end: one received sample, with its training reference if it has one (R70)
  | symbol (channel : Channel) (sample : Cplx) (reference : Option Cplx)
  -- front end: a decoded token and its validity mark (R72)
  | claim (channel : Channel) (token : Token) (valid : Bool)
  -- front end: END with the burst's power error and frequency error (R74)
  | burstEnd (channel : Channel) (power : Int) (frequency : Int)
  -- the pass in progress of a settling engine completes (R104)
  | passCompletion (engine : EngineId)
  -- an address character without fault (R182)
  | addressCharacter (value : Byte)
  -- a data character without fault (R183)
  | dataCharacter (value : Byte)
  -- a character with a framing or parity fault (R181)
  | faultyCharacter (fault : CharacterFault)
  -- the last character of the response has been sent (R185)
  | responseEnd
  -- the requests (R198)
  | status
  | lookup (sid : BitVec 16)
  | lookupSlot (slot : BitVec 16)
  | scan (slot : BitVec 16) (kind : Byte)
  | writeStation (sid : BitVec 16) (settings : List Setting)
  | admitStation (body : AdmitBody)
  | retire (sid : BitVec 16)
  | ackAttention (sid : BitVec 16) (kinds : List Byte)
  | armProgramme (sid : BitVec 16) (vector : Byte)
  | disarmProgramme (sid : BitVec 16)
  | takeCorrection
  | probes (position : Byte)
  | dismiss (token : Token)
  | mapOpen (channel : Byte) (start stop : Tick)
  | mapGrant (channel : Byte) (start : Tick) (length : BitVec 16) (sid : BitVec 16) (kind : Byte)
  | mapClose (channel : Byte)
  | mapAbandon (channel : Byte)
  | channelOn (channel : Byte)
  | channelOff (channel : Byte)
  | setDescriptor (index : Byte) (block : DescriptorBlock)
  | readDescriptor (index : Byte)
  | timeLoad (value : Tick)
  | timeRead
  | setParameter (setting : Byte) (value : Byte)
  deriving DecidableEq, Repr

end Sys2Proof
end

