-- ==== Sys2Proof/WellFormed.lean ====
section
/-! DEFINITION. Which commands can be spelled: the shapes of the three variable request bodies (R197, R199).
Every other command is well formed with any operands. -/

namespace Sys2Proof

/-- A present field carries exactly as many coefficients as its tap count code says (R197). -/
def CoefficientField.wellFormed : CoefficientField → Bool
  | .absent _ => true
  | .present code _ _ coefficients => coefficients.length = tapsOfCode code

/-- How many body characters a coefficient set field takes: 1, or 2 + 4 × tap count (R197). -/
def CoefficientField.size : CoefficientField → Nat
  | .absent _ => 1
  | .present _ _ _ coefficients => 2 + 4 * coefficients.length

/-- How many body characters a setting takes, its identifier included (R199). -/
def Setting.size : Setting → Nat
  | .channel _ => 2
  | .timingEstimate _ => 4
  | .powerEstimate _ => 3
  | .frequencyEstimate _ => 3
  | .advertisedTiming _ => 4
  | .advertisedPower _ => 3
  | .advertisedFrequency _ => 3
  | .coefficients field => 1 + field.size
  | .missReload _ => 2
  | .stepClass _ => 2
  | .unknown _ rest => 1 + rest.length

/-- The settings can be read back one after another: each coefficient field has its number of coefficients, and an
unknown identifier (outside 1..10) comes last, since the reading ends there (R199). -/
def settingsWellFormed : List Setting → Bool
  | [] => true
  | .unknown identifier _ :: rest => (identifier = 0 || 10 < identifier.toNat) && rest.isEmpty
  | .coefficients field :: rest => field.wellFormed && settingsWellFormed rest
  | .channel _ :: rest => settingsWellFormed rest
  | .timingEstimate _ :: rest => settingsWellFormed rest
  | .powerEstimate _ :: rest => settingsWellFormed rest
  | .frequencyEstimate _ :: rest => settingsWellFormed rest
  | .advertisedTiming _ :: rest => settingsWellFormed rest
  | .advertisedPower _ :: rest => settingsWellFormed rest
  | .advertisedFrequency _ :: rest => settingsWellFormed rest
  | .missReload _ :: rest => settingsWellFormed rest
  | .stepClass _ :: rest => settingsWellFormed rest

/-- The number of body characters of a list of settings. -/
def settingsSize : List Setting → Nat
  | [] => 0
  | setting :: rest => setting.size + settingsSize rest

/-- The list of settings is one that some body of at most 250 characters spells (R195, R199). -/
def settingsSpelled (settings : List Setting) : Bool :=
  settingsWellFormed settings && settingsSize settings ≤ 248

/-- The kinds of ACK ATTENTION: 0..3 of them (R199). -/
def kindsSpelled (kinds : List Byte) : Bool := kinds.length ≤ 3

/-- A command that some event, or some frame on the Host Link, can be. -/
def Instr.wellFormed : Instr → Bool
  | .partReset _ => true
  | .powerUp _ => true
  | .tick => true
  | .sync => true
  | .windowOpen _ => true
  | .windowClose _ => true
  | .graceExpiry _ => true
  | .mapEnd _ => true
  | .detect _ _ => true
  | .preambleDone _ => true
  | .symbol _ _ _ => true
  | .claim _ _ _ => true
  | .burstEnd _ _ _ => true
  | .passCompletion _ => true
  | .addressCharacter _ => true
  | .dataCharacter _ => true
  | .faultyCharacter _ => true
  | .responseEnd => true
  | .status => true
  | .lookup _ => true
  | .lookupSlot _ => true
  | .scan _ _ => true
  | .writeStation _ settings => settingsSpelled settings
  | .admitStation body => body.coefficients.wellFormed
  | .retire _ => true
  | .ackAttention _ kinds => kindsSpelled kinds
  | .armProgramme _ _ => true
  | .disarmProgramme _ => true
  | .takeCorrection => true
  | .probes _ => true
  | .dismiss _ => true
  | .mapOpen _ _ _ => true
  | .mapGrant _ _ _ _ _ => true
  | .mapClose _ => true
  | .mapAbandon _ => true
  | .channelOn _ => true
  | .channelOff _ => true
  | .setDescriptor _ _ => true
  | .readDescriptor _ => true
  | .timeLoad _ => true
  | .timeRead => true
  | .setParameter _ _ => true

end Sys2Proof
end

