-- ==== Sys2Proof/Decode.lean ====
section
/-! DEFINITION. Spelling: the bits of a character (R180, R194), the frame of a request (R195, R198, R199), and the
opcode table's words, of which the table gives none. Each decoder is total and refuses by name. -/

namespace Sys2Proof

/-! ### The opcode table's bits -/

/-- No row of spec/opcode_table.json gives bits, so no word spells a command. -/
def decodeTableWord (_nbits _w : Nat) : Option Instr := none

/-! ### Fields of more than one character: most significant first (R196) -/

def join16 (a b : Byte) : BitVec 16 := a ++ b
def join24 (a b c : Byte) : BitVec 24 := a ++ b ++ c
def join32 (a b c d : Byte) : BitVec 32 := a ++ b ++ c ++ d
def join48 (a b c d e f : Byte) : BitVec 48 := a ++ b ++ c ++ d ++ e ++ f

def bytes16 (v : BitVec 16) : List Byte := [v.extractLsb' 8 8, v.extractLsb' 0 8]
def bytes24 (v : BitVec 24) : List Byte := [v.extractLsb' 16 8, v.extractLsb' 8 8, v.extractLsb' 0 8]
def bytes32 (v : BitVec 32) : List Byte :=
  [v.extractLsb' 24 8, v.extractLsb' 16 8, v.extractLsb' 8 8, v.extractLsb' 0 8]
def bytes48 (v : BitVec 48) : List Byte :=
  [v.extractLsb' 40 8, v.extractLsb' 32 8, v.extractLsb' 24 8, v.extractLsb' 16 8, v.extractLsb' 8 8,
    v.extractLsb' 0 8]

/-- The sum mod 256 of a list of characters (R184, R185, R195). -/
def sumBytes : List Byte → Byte
  | [] => 0
  | b :: rest => b + sumBytes rest

/-! ### Characters -/

/-- How many of bit times `1..n` are one. -/
def onesUpTo (bits : BitVec 12) : Nat → Nat
  | 0 => 0
  | n + 1 => onesUpTo bits n + (bits.getLsbD (n + 1)).toNat

/-- What the part makes of the 12 bit times of a character, bit time 0 in bit 0 (R180, R181, R194): a low stop bit
is a framing fault, an odd number of ones in bit times 1..10 a parity fault; otherwise the mark bit tells an address
character from a data character. Without a low start bit there is no character. -/
def decodeCharacter (bits : BitVec 12) : Option Instr :=
  if bits.getLsbD 0 then none
  else if !bits.getLsbD 11 then some (.faultyCharacter .framing)
  else if onesUpTo bits 10 % 2 = 1 then some (.faultyCharacter .parity)
  else if bits.getLsbD 9 then some (.addressCharacter (bits.extractLsb' 1 8))
  else some (.dataCharacter (bits.extractLsb' 1 8))

/-- The 12 bit times of a character without fault (R180, R194): stop, parity, mark, data, start. -/
def encodeCharacter (mark : Bool) (value : Byte) : BitVec 12 :=
  let marked : BitVec 12 := (BitVec.ofBool mark ++ value ++ BitVec.ofBool false).setWidth 12
  BitVec.ofBool true ++ BitVec.ofBool (onesUpTo marked 9 % 2 = 1) ++ (marked.setWidth 10)

/-! ### The coefficient set field -/

def encodeCoefficients : List Cplx → List Byte
  | [] => []
  | c :: rest => bytes16 c.re ++ bytes16 c.im ++ encodeCoefficients rest

/-- A coefficient set field as it is sent (R197). -/
def CoefficientField.encode : CoefficientField → List Byte
  | .absent low => [BitVec.ofBool true ++ low]
  | .present code reserved main coefficients =>
    (BitVec.ofBool false ++ reserved ++ code) :: main :: encodeCoefficients coefficients

def readCoefficients : Nat → List Byte → Option (List Cplx × List Byte)
  | 0, rest => some ([], rest)
  | n + 1, a :: b :: c :: d :: rest =>
    match readCoefficients n rest with
    | some (coefficients, rest') => some (⟨join16 a b, join16 c d⟩ :: coefficients, rest')
    | none => none
  | _ + 1, _ => none

/-- Reads one coefficient set field and gives the characters after it; none where the body ends too soon (R197). -/
def readCoefficientField : List Byte → Option (CoefficientField × List Byte)
  | [] => none
  | header :: rest =>
    if header.getLsbD 7 then some (.absent (header.extractLsb' 0 7), rest)
    else
      match rest with
      | [] => none
      | main :: rest' =>
        match readCoefficients (tapsOfCode (header.extractLsb' 0 2)) rest' with
        | some (coefficients, rest'') =>
          some (.present (header.extractLsb' 0 2) (header.extractLsb' 2 5) main coefficients, rest'')
        | none => none

/-! ### WRITE STATION's settings -/

/-- The identifier of a setting (R199). -/
def Setting.identifier : Setting → Byte
  | .channel _ => 1
  | .timingEstimate _ => 2
  | .powerEstimate _ => 3
  | .frequencyEstimate _ => 4
  | .advertisedTiming _ => 5
  | .advertisedPower _ => 6
  | .advertisedFrequency _ => 7
  | .coefficients _ => 8
  | .missReload _ => 9
  | .stepClass _ => 10
  | .unknown identifier _ => identifier

/-- The characters of a setting's value, after its identifier (R199). -/
def Setting.encodeValue : Setting → List Byte
  | .channel v => [v]
  | .timingEstimate v => bytes24 v
  | .powerEstimate v => bytes16 v
  | .frequencyEstimate v => bytes16 v
  | .advertisedTiming v => bytes24 v
  | .advertisedPower v => bytes16 v
  | .advertisedFrequency v => bytes16 v
  | .coefficients field => field.encode
  | .missReload v => [v]
  | .stepClass v => [v]
  | .unknown _ rest => rest

def encodeSettings : List Setting → List Byte
  | [] => []
  | setting :: rest => setting.identifier :: setting.encodeValue ++ encodeSettings rest

def readOne (make : Byte → Setting) : List Byte → Option (Setting × List Byte)
  | a :: rest => some (make a, rest)
  | _ => none

def readTwo (make : BitVec 16 → Setting) : List Byte → Option (Setting × List Byte)
  | a :: b :: rest => some (make (join16 a b), rest)
  | _ => none

def readThree (make : BitVec 24 → Setting) : List Byte → Option (Setting × List Byte)
  | a :: b :: c :: rest => some (make (join24 a b c), rest)
  | _ => none

/-- Reads the value that follows an identifier (R199). An identifier outside 1..10 ends the reading: what follows it
stays with it. -/
def readSetting (identifier : Byte) (body : List Byte) : Option (Setting × List Byte) :=
  match identifier.toNat with
  | 1 => readOne .channel body
  | 2 => readThree .timingEstimate body
  | 3 => readTwo .powerEstimate body
  | 4 => readTwo .frequencyEstimate body
  | 5 => readThree .advertisedTiming body
  | 6 => readTwo .advertisedPower body
  | 7 => readTwo .advertisedFrequency body
  | 8 =>
    match readCoefficientField body with
    | some (field, rest) => some (.coefficients field, rest)
    | none => none
  | 9 => readOne .missReload body
  | 10 => readOne .stepClass body
  | _ => some (.unknown identifier body, [])

/-- Reads settings until the body is used up (R199). The first argument bounds their number; the body's length is
always enough. -/
def readSettings : Nat → List Byte → Option (List Setting)
  | _, [] => some []
  | 0, _ :: _ => none
  | n + 1, identifier :: body =>
    match readSetting identifier body with
    | some (setting, rest) =>
      match readSettings n rest with
      | some settings => some (setting :: settings)
      | none => none
    | none => none

/-! ### ADMIT's body -/

def readVector : Bool → List Byte → Option (Option Byte × List Byte)
  | false, rest => some (none, rest)
  | true, v :: rest => some (some v, rest)
  | true, [] => none

def readToken : Bool → List Byte → Option (Option Token × List Byte)
  | false, rest => some (none, rest)
  | true, a :: b :: c :: d :: e :: f :: rest => some (some (join48 a b c d e f), rest)
  | true, _ => none

/-- Reads the body of ADMIT whole; none where its length is not the one its presence byte and its coefficient field
require (R199). -/
def readAdmit : List Byte → Option AdmitBody
  | s1 :: s0 :: channel :: missReload :: presence :: rest =>
    match readVector (presence.getLsbD 0) rest with
    | none => none
    | some (vector, rest') =>
      match readToken (presence.getLsbD 1) rest' with
      | none => none
      | some (token, rest'') =>
        match readCoefficientField rest'' with
        | some (coefficients, []) =>
          some { sid := join16 s1 s0, channel := channel, missReload := missReload,
                 reserved := presence.extractLsb' 2 6, vector := vector, token := token,
                 coefficients := coefficients }
        | _ => none
  | _ => none

/-- The body of ADMIT as it is sent (R199). -/
def AdmitBody.encode (a : AdmitBody) : List Byte :=
  bytes16 a.sid ++ [a.channel, a.missReload,
      a.reserved ++ BitVec.ofBool a.token.isSome ++ BitVec.ofBool a.vector.isSome]
    ++ (match a.vector with | some v => [v] | none => [])
    ++ (match a.token with | some t => bytes48 t | none => [])
    ++ a.coefficients.encode

/-- The descriptor block as it is sent, 11 characters (R197). -/
def DescriptorBlock.encode (d : DescriptorBlock) : List Byte :=
  [d.flags, d.count, d.mask] ++ bytes16 d.timingThreshold ++ [d.powerThreshold] ++ bytes16 d.frequencyThreshold
    ++ [d.passes, d.coarseShift, d.fineShift]

/-! ### Requests -/

/-- Checks 3 and 4 of R184 on a code and a body: the request they spell, or UNKNOWN where the code names none, or
LENGTH where the body's length is not one the request allows (R198, R199). -/
def decodeRequest (code : Byte) (body : List Byte) : Except Status Instr :=
  match code.toNat with
  | 0x01 => match body with | [] => .ok .status | _ => .error .length
  | 0x10 => match body with | [a, b] => .ok (.lookup (join16 a b)) | _ => .error .length
  | 0x11 => match body with | [a, b] => .ok (.lookupSlot (join16 a b)) | _ => .error .length
  | 0x12 => match body with | [a, b, k] => .ok (.scan (join16 a b) k) | _ => .error .length
  | 0x13 =>
    match body with
    | a :: b :: rest =>
      match readSettings rest.length rest with
      | some settings => .ok (.writeStation (join16 a b) settings)
      | none => .error .length
    | _ => .error .length
  | 0x14 => match readAdmit body with | some a => .ok (.admitStation a) | none => .error .length
  | 0x15 => match body with | [a, b] => .ok (.retire (join16 a b)) | _ => .error .length
  | 0x16 =>
    match body with
    | a :: b :: kinds => if kinds.length ≤ 3 then .ok (.ackAttention (join16 a b) kinds) else .error .length
    | _ => .error .length
  | 0x17 => match body with | [a, b, v] => .ok (.armProgramme (join16 a b) v) | _ => .error .length
  | 0x18 => match body with | [a, b] => .ok (.disarmProgramme (join16 a b)) | _ => .error .length
  | 0x20 => match body with | [] => .ok .takeCorrection | _ => .error .length
  | 0x28 => match body with | [p] => .ok (.probes p) | _ => .error .length
  | 0x29 =>
    match body with
    | [a, b, c, d, e, f] => .ok (.dismiss (join48 a b c d e f))
    | _ => .error .length
  | 0x30 =>
    match body with
    | [c, a3, a2, a1, a0, b3, b2, b1, b0] => .ok (.mapOpen c (join32 a3 a2 a1 a0) (join32 b3 b2 b1 b0))
    | _ => .error .length
  | 0x31 =>
    match body with
    | [c, a3, a2, a1, a0, l1, l0, s1, s0, k] =>
      .ok (.mapGrant c (join32 a3 a2 a1 a0) (join16 l1 l0) (join16 s1 s0) k)
    | _ => .error .length
  | 0x32 => match body with | [c] => .ok (.mapClose c) | _ => .error .length
  | 0x33 => match body with | [c] => .ok (.mapAbandon c) | _ => .error .length
  | 0x34 => match body with | [c] => .ok (.channelOn c) | _ => .error .length
  | 0x35 => match body with | [c] => .ok (.channelOff c) | _ => .error .length
  | 0x40 =>
    match body with
    | [i, flags, count, mask, t1, t0, p, f1, f0, passes, coarse, fine] =>
      .ok (.setDescriptor i { flags := flags, count := count, mask := mask, timingThreshold := join16 t1 t0,
                              powerThreshold := p, frequencyThreshold := join16 f1 f0, passes := passes,
                              coarseShift := coarse, fineShift := fine })
    | _ => .error .length
  | 0x41 => match body with | [i] => .ok (.readDescriptor i) | _ => .error .length
  | 0x50 => match body with | [a, b, c, d] => .ok (.timeLoad (join32 a b c d)) | _ => .error .length
  | 0x51 => match body with | [] => .ok .timeRead | _ => .error .length
  | 0x52 => match body with | [n, v] => .ok (.setParameter n v) | _ => .error .length
  | _ => .error .unknown

/-- The code and the body of a request (R198, R199); none for a command that is no request. -/
def encodeRequest : Instr → Option (Byte × List Byte)
  | .partReset _ => none
  | .powerUp _ => none
  | .tick => none
  | .sync => none
  | .windowOpen _ => none
  | .windowClose _ => none
  | .graceExpiry _ => none
  | .mapEnd _ => none
  | .detect _ _ => none
  | .preambleDone _ => none
  | .symbol _ _ _ => none
  | .claim _ _ _ => none
  | .burstEnd _ _ _ => none
  | .passCompletion _ => none
  | .addressCharacter _ => none
  | .dataCharacter _ => none
  | .faultyCharacter _ => none
  | .responseEnd => none
  | .status => some (0x01, [])
  | .lookup sid => some (0x10, bytes16 sid)
  | .lookupSlot slot => some (0x11, bytes16 slot)
  | .scan slot kind => some (0x12, bytes16 slot ++ [kind])
  | .writeStation sid settings => some (0x13, bytes16 sid ++ encodeSettings settings)
  | .admitStation body => some (0x14, body.encode)
  | .retire sid => some (0x15, bytes16 sid)
  | .ackAttention sid kinds => some (0x16, bytes16 sid ++ kinds)
  | .armProgramme sid vector => some (0x17, bytes16 sid ++ [vector])
  | .disarmProgramme sid => some (0x18, bytes16 sid)
  | .takeCorrection => some (0x20, [])
  | .probes position => some (0x28, [position])
  | .dismiss token => some (0x29, bytes48 token)
  | .mapOpen channel start stop => some (0x30, channel :: bytes32 start ++ bytes32 stop)
  | .mapGrant channel start length sid kind =>
    some (0x31, channel :: bytes32 start ++ bytes16 length ++ bytes16 sid ++ [kind])
  | .mapClose channel => some (0x32, [channel])
  | .mapAbandon channel => some (0x33, [channel])
  | .channelOn channel => some (0x34, [channel])
  | .channelOff channel => some (0x35, [channel])
  | .setDescriptor index block => some (0x40, index :: block.encode)
  | .readDescriptor index => some (0x41, [index])
  | .timeLoad value => some (0x50, bytes32 value)
  | .timeRead => some (0x51, [])
  | .setParameter setting value => some (0x52, [setting, value])

/-- A request's frame after the address character: code, length, body, checksum (R195). -/
def requestFrame (code : Byte) (body : List Byte) : List Byte :=
  let length : Byte := BitVec.ofNat 8 body.length
  code :: length :: body ++ [code + (length + sumBytes body)]

end Sys2Proof
end

