-- ==== Sys2Proof/Config.lean ====
section
/-! DEFINITION. The free values: what the manual leaves open and nothing in Lean can evaluate. -/

namespace Sys2Proof

/-- A free value (log entries 4, 5 and 10): the `k`-th choice the part makes where its rules give no order.
It is used only modulo the number of candidates, and only when there are at least two.
Nothing is known of it, so a claim that mentions it holds whatever the part chooses. -/
opaque Config.openChoice : Nat → Nat

end Sys2Proof
end

