-- ==== Sys2Proof/Machine/State.lean ====
section
/-! DEFINITION. The state of the EQ-4100 as plain data, and the state after part reset. -/

namespace Sys2Proof.Machine

/-! ### The Station Table (01_the_station_table.md) -/

/-- The five states of a station record (R2). -/
inductive RecordState where
  | free | training | locked | stale | retiring
  deriving DecidableEq, Repr

/-- Which of a descriptor's two shifts a station uses (R8). -/
inductive StepClass where
  | coarse | fine
  deriving DecidableEq, Repr

/-- The verdict of a maintenance run (R142). -/
inductive Verdict where
  | none | adjust | settled | drop
  deriving DecidableEq, Repr

/-- Where a station stands with the Correction Unit (R11). -/
inductive CorrectionState where
  | none | held | queued
  deriving DecidableEq, Repr

/-- The three kinds of attention (R12). -/
inductive AttentionKind where
  | staleNew | programmeDone | saturated
  deriving DecidableEq, Repr

/-- A subset of the three kinds (R12). -/
structure Attention where
  staleNew : Bool
  programmeDone : Bool
  saturated : Bool
  deriving DecidableEq, Repr

/-- For each kind, the number of records whose set holds it (R12). -/
structure AttentionCounts where
  staleNew : Nat
  programmeDone : Nat
  saturated : Nat
  deriving DecidableEq, Repr

/-- The holder of a record (R16). -/
inductive Binding where
  | none
  | burst (channel : Channel)
  | settling (engine : EngineId)
  deriving DecidableEq, Repr

/-- The purpose of a grant and the kind of a burst (R44). -/
inductive GrantKind where
  | data | maint | initial
  deriving DecidableEq, Repr

/-- A timing value in fine ticks, a power value in quarter-dB and a frequency value in hertz: estimates, advertised
values, errors and adjusts are such triples (R4, R5, R152). -/
structure Offsets where
  timing : Int
  power : Int
  frequency : Int
  deriving DecidableEq, Repr

/-- Last measured: the burst kind and the three errors (R5). -/
structure Measured where
  kind : GrantKind
  errors : Offsets
  deriving DecidableEq, Repr

/-- The tap counts there are (R6). -/
inductive TapCount where
  | t8 | t16 | t24 | t32
  deriving DecidableEq, Repr

/-- A coefficient set: its tap count, its main tap position and its coefficients from coefficient 0 up (R6). -/
structure CoefficientSet where
  count : TapCount
  main : Nat
  taps : List Cplx
  deriving DecidableEq, Repr

/-- One station record (R1). -/
structure Station where
  state : RecordState
  sid : Sid
  channel : Channel
  estimate : Offsets
  advertised : Offsets
  lastMeasured : Option Measured
  coefficients : Option CoefficientSet
  generation : BitVec 8
  stepClass : StepClass
  missReload : Nat
  missesRemaining : Nat
  armed : Bool
  vector : DescriptorId
  remaining : Nat
  lastVerdict : Verdict
  exportWanted : Bool
  correction : CorrectionState
  reCorrect : Bool
  attention : Attention
  binding : Binding
  deriving DecidableEq, Repr

/-! ### The Plant Time Base and the Map Unit (02_plant_time_and_grant_windows.md, 03_burst_maps.md) -/

/-- The time points of one channel (R35, table of 2.4). -/
structure TimePoints where
  opening : Option Tick
  close : Option Tick
  grace : Option Tick
  mapEnd : Option Tick
  deriving DecidableEq, Repr

/-- A grant (R44). -/
structure Grant where
  start : Tick
  length : BitVec 16
  sid : Sid
  kind : GrantKind
  deriving DecidableEq, Repr

/-- A map: its span and its grants in order (R45). Its channel is the channel it stands at. -/
structure BurstMap where
  start : Tick
  stop : Tick
  grants : List Grant
  deriving DecidableEq, Repr

/-- The channel states (R46). -/
inductive ChannelState where
  | off | starved | running
  deriving DecidableEq, Repr

/-- The pending map with its state EMPTY, BUILDING or READY (R46). -/
inductive PendingMap where
  | empty
  | building (map : BurstMap)
  | ready (map : BurstMap)
  deriving DecidableEq, Repr

/-- What the Map Unit holds for one channel (R46). -/
structure ChannelMap where
  state : ChannelState
  active : Option BurstMap
  position : Option Nat
  pendingMap : PendingMap
  deriving DecidableEq, Repr

/-! ### The Burst Sequencers (04_burst_conditioning_on_a_channel.md) -/

/-- The kinds of window (R58). -/
inductive WindowKind where
  | contention | unicast | void
  deriving DecidableEq, Repr

/-- The window record handed over at window open (R58). -/
structure Window where
  kind : WindowKind
  grant : GrantKind
  start : Tick
  stop : Tick
  sid : Sid
  slot : Option Slot
  deriving DecidableEq, Repr

/-- The five sequencer states (R62). -/
inductive SequencerState where
  | closed | opened | waiting | live | grace
  deriving DecidableEq, Repr

/-- The capture of a DETECT: the counter and the fine phase (R41). -/
structure Capture where
  tick : Tick
  phase : BitVec 6
  deriving DecidableEq, Repr

/-- The engine item of a burst context (R62). -/
inductive EngineItem where
  | none
  | requested
  | granted (engine : EngineId)
  deriving DecidableEq, Repr

/-- The mode of a unicast burst (R68). -/
inductive Mode where
  | undecided | equalised | bypass
  deriving DecidableEq, Repr

/-- A decoded token with its validity mark (R72). -/
structure Claim where
  token : Token
  valid : Bool
  deriving DecidableEq, Repr

/-- The burst context of one channel (R62). -/
structure Burst where
  state : SequencerState
  window : Option Window
  used : Bool
  capture : Option Capture
  slot : Option Slot
  engine : EngineItem
  mode : Mode
  disturbed : Bool
  headerSent : Bool
  clips : Nat
  claim : Option Claim
  deriving DecidableEq, Repr

/-- How a burst ends (R69, R74, R82, R84). -/
inductive BurstOutcome where
  | normal | disturbed | truncated | abandoned
  deriving DecidableEq, Repr

/-- The items of Symbol Out (R69). -/
inductive SymbolItem where
  | header (sid : Sid) (channel : Channel) (start : Tick) (kind : GrantKind) (mode : Mode)
  | symbol (value : Cplx)
  | trailer (outcome : BurstOutcome) (clips : Nat)
  deriving DecidableEq, Repr

/-! ### The Tap Engine Pool (05_tap_engines.md) -/

/-- The three engine states (R87). -/
inductive EngineState where
  | idle | live | settling
  deriving DecidableEq, Repr

/-- The context of one engine (R86). -/
structure Engine where
  state : EngineState
  channel : Option Channel
  slot : Option Slot
  kind : Option GrantKind
  working : Option CoefficientSet
  generation : BitVec 8
  armed : Bool
  shift : Option Nat
  passes : Nat
  delayLine : Vector Cplx 32
  writePos : Fin 32
  training : List (Cplx × Cplx)
  saturated : Bool
  errors : Option Offsets
  settlingStart : Option Tick
  passesDone : Nat
  checkpoint : Option CoefficientSet
  checkpointMark : Bool
  deriving DecidableEq, Repr

/-- A request in the arbiter's waiting order (R90). -/
structure EngineRequest where
  channel : Channel
  slot : Slot
  kind : GrantKind
  arrival : Capture
  deriving DecidableEq, Repr

/-! ### The Programme Unit, the Correction Unit and the Probe List (07, 08, 06) -/

/-- The update mask of a descriptor (R128). -/
structure UpdateMask where
  timing : Bool
  power : Bool
  frequency : Bool
  coefficients : Bool
  deriving DecidableEq, Repr

/-- The mode of a descriptor (R128). -/
inductive ProgrammeMode where
  | once | repeating
  deriving DecidableEq, Repr

/-- A maintenance descriptor (R128). -/
structure Descriptor where
  mode : ProgrammeMode
  count : Nat
  noticeOnRepeat : Bool
  chain : Bool
  mask : UpdateMask
  timingThreshold : Nat
  powerThreshold : Nat
  frequencyThreshold : Nat
  passes : Nat
  coarseShift : Nat
  fineShift : Nat
  exportSet : Bool
  deriving DecidableEq, Repr

/-- A correction entry (R152). -/
structure Correction where
  slot : Slot
  sid : Sid
  adjust : Offsets
  verdict : Verdict
  coefficients : Option CoefficientSet
  deriving DecidableEq, Repr

/-- A probe entry (R116). -/
structure Probe where
  token : Token
  channel : Channel
  arrival : Tick
  errors : Offsets
  sightings : Nat
  age : Nat
  deriving DecidableEq, Repr

/-! ### The Host Link (10_host_link_and_requests.md) -/

/-- A request whose length is known: code, length, the body characters kept (at most 250, in order), how many have
been received, and the running sum mod 256 (R183). -/
structure PartialRequest where
  code : Byte
  length : Byte
  body : List Byte
  received : Nat
  sum : Byte
  deriving DecidableEq, Repr

/-- The six receiver states, each with the part of a request it holds (R183). -/
inductive Receiver where
  | deselected
  | awaitCode
  | awaitLength (code : Byte) (sum : Byte)
  | body (request : PartialRequest)
  | awaitChecksum (request : PartialRequest)
  | discarding
  deriving DecidableEq, Repr

/-- The Host Link: the sampled straps, the receiver, the three fault flags and the characters of the response being
sent, if any (R180, R183, R185, R186). -/
structure Link where
  address : BitVec 3
  rate : BitVec 2
  receiver : Receiver
  framing : Bool
  parity : Bool
  overrun : Bool
  sending : Option (List Byte)
  deriving DecidableEq, Repr

/-! ### The whole part -/

/-- The state of the part, and the model's own `choices` (log entry 5) and `pending` (log entry 1). -/
structure State where
  stations : Vector Station 1024
  sidMap : Vector (Option Slot) 4096
  counts : AttentionCounts
  counter : Tick
  loadPending : Bool
  pendingLoad : Tick
  windowLead : Nat
  probeLifetime : Nat
  points : Vector TimePoints 4
  maps : Vector ChannelMap 4
  bursts : Vector Burst 4
  symbolOut : Vector (List SymbolItem) 4
  engines : Vector Engine 3
  waiting : List EngineRequest
  descriptors : Vector Descriptor 128
  queue : List Correction
  held : List Slot
  probes : List Probe
  probeOverflow : Bool
  link : Link
  choices : Nat
  pending : List Instr
  deriving DecidableEq, Repr

/-- No command stops the part: the manual names no machine fault, and link faults and refused requests are effects on
the state (R181, R186, R188). The type therefore has no constructor. -/
inductive Fault where
  deriving DecidableEq, Repr

/-- The reasons for which the model could decline a command. -/
inductive Refusal where
  /-- Raised by an arm of `exec` whose command has no meaning yet, and by nothing else. No arm does so now.
  It would be safe: the model stops where the part goes on. -/
  | notModelled (mnemonic : String)
  deriving DecidableEq, Repr

/-! ### Values after part reset -/

/-- Three zeros (R1). -/
def Offsets.zero : Offsets := ⟨0, 0, 0⟩

/-- The empty attention set (R1). -/
def Attention.empty : Attention := ⟨false, false, false⟩

/-- A station record after part reset, and whenever it becomes FREE (R1, R15). -/
def Station.reset : Station where
  state := .free
  sid := 0
  channel := 0
  estimate := .zero
  advertised := .zero
  lastMeasured := none
  coefficients := none
  generation := 0
  stepClass := .coarse
  missReload := 1
  missesRemaining := 0
  armed := false
  vector := 0
  remaining := 0
  lastVerdict := .none
  exportWanted := false
  correction := .none
  reCorrect := false
  attention := .empty
  binding := .none

/-- Every time point absent (R35). -/
def TimePoints.reset : TimePoints := ⟨none, none, none, none⟩

/-- A channel's map state after part reset and after CHANNEL OFF (R46). -/
def ChannelMap.reset : ChannelMap := ⟨.off, none, none, .empty⟩

/-- A burst context after part reset and after CHANNEL OFF (R62). -/
def Burst.reset : Burst where
  state := .closed
  window := none
  used := false
  capture := none
  slot := none
  engine := .none
  mode := .undecided
  disturbed := false
  headerSent := false
  clips := 0
  claim := none

/-- An engine after part reset and whenever it becomes IDLE (R86, R87). -/
def Engine.reset : Engine where
  state := .idle
  channel := none
  slot := none
  kind := none
  working := none
  generation := 0
  armed := false
  shift := none
  passes := 0
  delayLine := Vector.replicate 32 Cplx.zero
  writePos := 0
  training := []
  saturated := false
  errors := none
  settlingStart := none
  passesDone := 0
  checkpoint := none
  checkpointMark := false

/-- The empty descriptor (R128). -/
def Descriptor.empty : Descriptor where
  mode := .once
  count := 1
  noticeOnRepeat := false
  chain := false
  mask := ⟨false, false, false, false⟩
  timingThreshold := 0
  powerThreshold := 0
  frequencyThreshold := 0
  passes := 0
  coarseShift := 6
  fineShift := 10
  exportSet := false

/-- The Host Link after part reset, with the straps as sampled (R187, R192). -/
def Link.reset (straps : Straps) : Link where
  address := straps.address
  rate := straps.rate
  receiver := .deselected
  framing := false
  parity := false
  overrun := false
  sending := none

/-- The part right after a reset with these straps: every block at its reset values (R1, R29, R31, R34, R35, R46,
R62, R86, R114, R128, R150, R187). -/
def State.resetWith (straps : Straps) : State where
  stations := Vector.replicate 1024 .reset
  sidMap := Vector.replicate 4096 none
  counts := ⟨0, 0, 0⟩
  counter := 0
  loadPending := false
  pendingLoad := 0
  windowLead := 16
  probeLifetime := 16
  points := Vector.replicate 4 .reset
  maps := Vector.replicate 4 .reset
  bursts := Vector.replicate 4 .reset
  symbolOut := Vector.replicate 4 []
  engines := Vector.replicate 3 .reset
  waiting := []
  descriptors := Vector.replicate 128 .empty
  queue := []
  held := []
  probes := []
  probeOverflow := false
  link := .reset straps
  choices := 0
  pending := []

/-- The part right after reset. The manual leaves the strap pins to the card: all tied low here (DESIGN CHOICE,
unsafe, log entry 9). -/
def State.reset : State := .resetWith ⟨0, 0⟩

end Sys2Proof.Machine
end

