-- ==== Sys2Proof/Machine/Arith.lean ====
section
/-! DEFINITION. Tick comparison, arrivals, clamping, rounding, complex arithmetic, and the byte views of values. -/

namespace Sys2Proof.Machine

/-! ### Ticks (R30) -/

/-- *a is before b*: (b − a) mod 2^32 lies in 1..2^31 − 1 (R30). -/
def isBefore (a b : Tick) : Bool := 0 < (b - a).toNat && (b - a).toNat < 2 ^ 31

/-- *a is at or before b*: (b − a) mod 2^32 lies in 0..2^31 − 1 (R30). -/
def isAtOrBefore (a b : Tick) : Bool := (b - a).toNat < 2 ^ 31

/-- A grant's end, start + length mod 2^32 (R44). -/
def Grant.stop (g : Grant) : Tick := g.start + g.length.setWidth 32

/-- A window's opening point, start − window lead mod 2^32 (R30, R36). -/
def openingPoint (lead : Nat) (g : Grant) : Tick := g.start - BitVec.ofNat 32 lead

/-! ### Arrivals (R42, R43) -/

/-- A burst's arrival in fine ticks: captured tick × 64 plus the fine phase, mod 2^38 (R42). -/
def Capture.arrival (c : Capture) : BitVec 38 := c.tick.setWidth 38 * 64 + c.phase.setWidth 38

/-- *a is earlier than b* (R42). -/
def Capture.earlier (a b : Capture) : Bool :=
  isBefore a.tick b.tick || (a.tick = b.tick && a.phase.toNat < b.phase.toNat)

/-- `x` forced into `lo..hi`: the nearer bound when it lies outside (00_scope.md 5.5). -/
def clamp (lo hi x : Int) : Int := if x < lo then lo else if hi < x then hi else x

def clampTiming (x : Int) : Int := clamp (-1048576) 1048575 x
def clampPower (x : Int) : Int := clamp (-256) 255 x
def clampFrequency (x : Int) : Int := clamp (-32768) 32767 x

/-- The ranges of the three estimates, advertised values and errors (R1). -/
def timingInRange (x : Int) : Bool := -1048576 ≤ x && x ≤ 1048575
def powerInRange (x : Int) : Bool := -256 ≤ x && x ≤ 255
def frequencyInRange (x : Int) : Bool := -32768 ≤ x && x ≤ 32767

/-- Each of the three values forced into its range (R4). -/
def Offsets.clamped (o : Offsets) : Offsets :=
  ⟨clampTiming o.timing, clampPower o.power, clampFrequency o.frequency⟩

/-- Sum and difference, part by part, formed exactly (R4, R152). -/
def Offsets.plus (a b : Offsets) : Offsets :=
  ⟨a.timing + b.timing, a.power + b.power, a.frequency + b.frequency⟩

def Offsets.minus (a b : Offsets) : Offsets :=
  ⟨a.timing - b.timing, a.power - b.power, a.frequency - b.frequency⟩

/-- The timing error of a burst: arrival − grant start × 64 mod 2^38, read as signed and clamped (R43). -/
def timingError (c : Capture) (grantStart : Tick) : Int :=
  clampTiming (c.arrival - grantStart.setWidth 38 * 64).toInt

/-! ### Fractions (00_scope.md 5.4) -/

/-- A signed 15-fraction-bit part in units of 1/32768, forced into −1..unit value: a clip of an output part (R98) or a
clamp of a coefficient part (R100). -/
def limitPart (x : Int) : Int := clamp (-32768) 32767 x

/-- Whether forcing changes the part. -/
def exceedsPart (x : Int) : Bool := x < -32768 || 32767 < x

/-- `x / 2^n` rounded to the nearest integer, halves to the larger (R97). -/
def roundShift (x : Int) (n : Nat) : Int := (2 * x + 2 ^ n) / 2 ^ (n + 1)

/-- An exact complex value in units of some power of two. -/
structure Exact where
  re : Int
  im : Int
  deriving DecidableEq, Repr

def Exact.plus (a b : Exact) : Exact := ⟨a.re + b.re, a.im + b.im⟩

/-- The parts of a complex value in units of 1/32768. -/
def exactOf (c : Cplx) : Exact := ⟨c.re.toInt, c.im.toInt⟩

/-- The exact complex product, in units of 1/2^30 (R97). -/
def Exact.times (a b : Exact) : Exact := ⟨a.re * b.re - a.im * b.im, a.re * b.im + a.im * b.re⟩

/-- The exact product of `e` and the complex conjugate of `v` (R100 step 1). -/
def Exact.timesConj (e v : Exact) : Exact := ⟨e.re * v.re + e.im * v.im, e.im * v.re - e.re * v.im⟩

/-- Each part forced into −1..unit value. -/
def Exact.limited (a : Exact) : Cplx := ⟨BitVec.ofInt 16 (limitPart a.re), BitVec.ofInt 16 (limitPart a.im)⟩

/-- Whether forcing changes either part. -/
def Exact.exceeds (a : Exact) : Bool := exceedsPart a.re || exceedsPart a.im

/-! ### Coefficient sets (R6) -/

def TapCount.toNat : TapCount → Nat
  | .t8 => 8
  | .t16 => 16
  | .t24 => 24
  | .t32 => 32

/-- The identity set of tap count N and main tap m: coefficient m is the unit value, every other is 0 (R6). -/
def CoefficientSet.identity (count : TapCount) (main : Nat) : CoefficientSet where
  count := count
  main := main
  taps := (List.range count.toNat).map fun k => if k = main then Cplx.unit else Cplx.zero

/-- What every present coefficient set satisfies: exactly tap-count coefficients and a main tap below it (R6). -/
def CoefficientSet.valid (c : CoefficientSet) : Bool := c.taps.length = c.count.toNat && c.main < c.count.toNat

/-- The set an engine uses for a record whose set is absent: 8 taps, main tap 3 (R6). -/
def CoefficientSet.whenAbsent : CoefficientSet := .identity .t8 3

/-! ### Byte views (R196) -/

def byteOfNat (n : Nat) : Byte := BitVec.ofNat 8 n
def byteOfBool (b : Bool) : Byte := if b then 1 else 0

end Sys2Proof.Machine
end

