-- ==== Sys2Proof/Machine/Ops.lean ====
section
/-! DEFINITION. The named operations over the blocks: reading and writing one record, entry, context or engine, and
the shared effects on a station record (attention, freeing, unbinding, misses). -/

namespace Sys2Proof.Machine

/-! ### One home for each thing -/

def State.station (s : State) (i : Slot) : Station := s.stations[i]
def State.setStation (s : State) (i : Slot) (r : Station) : State :=
  { s with stations := s.stations.set i r }

def State.sidEntry (s : State) (v : Sid) : Option Slot := s.sidMap[v]
def State.setSidEntry (s : State) (v : Sid) (e : Option Slot) : State :=
  { s with sidMap := s.sidMap.set v e }

def State.point (s : State) (c : Channel) : TimePoints := s.points[c]
def State.setPoint (s : State) (c : Channel) (p : TimePoints) : State :=
  { s with points := s.points.set c p }

def State.map (s : State) (c : Channel) : ChannelMap := s.maps[c]
def State.setMap (s : State) (c : Channel) (m : ChannelMap) : State :=
  { s with maps := s.maps.set c m }

def State.burst (s : State) (c : Channel) : Burst := s.bursts[c]
def State.setBurst (s : State) (c : Channel) (b : Burst) : State :=
  { s with bursts := s.bursts.set c b }

def State.engine (s : State) (e : EngineId) : Engine := s.engines[e]
def State.setEngine (s : State) (e : EngineId) (x : Engine) : State :=
  { s with engines := s.engines.set e x }

def State.descriptor (s : State) (i : DescriptorId) : Descriptor := s.descriptors[i]
def State.setDescriptor (s : State) (i : DescriptorId) (d : Descriptor) : State :=
  { s with descriptors := s.descriptors.set i d }

/-- The items emitted on a channel's Symbol Out since part reset, in order (R69, log entry 7). -/
def State.emitted (s : State) (c : Channel) : List SymbolItem := s.symbolOut[c]

/-- One item is emitted on a channel's Symbol Out (R69). -/
def State.emit (s : State) (c : Channel) (item : SymbolItem) : State :=
  { s with symbolOut := s.symbolOut.set c (s.emitted c ++ [item]) }

/-! ### Choices the rules leave open -/

/-- One of the `n` candidates 0..n − 1, and the state with one more choice made (log entries 4, 5 and 10). -/
def State.choose (s : State) (n : Nat) : Nat × State :=
  (Sys2Proof.Config.openChoice s.choices % n, { s with choices := s.choices + 1 })

/-- One of a list of candidates: the only one there is, or a free choice among several. -/
def State.pick {α : Type} (s : State) : List α → Option α × State
  | [] => (none, s)
  | [x] => (some x, s)
  | x :: y :: rest =>
    ((x :: y :: rest)[(s.choose (rest.length + 2)).1]?, (s.choose (rest.length + 2)).2)

/-! ### Attention (R12) -/

def Attention.has (a : Attention) : AttentionKind → Bool
  | .staleNew => a.staleNew
  | .programmeDone => a.programmeDone
  | .saturated => a.saturated

def Attention.put (a : Attention) (b : Bool) : AttentionKind → Attention
  | .staleNew => { a with staleNew := b }
  | .programmeDone => { a with programmeDone := b }
  | .saturated => { a with saturated := b }

def AttentionCounts.get (n : AttentionCounts) : AttentionKind → Nat
  | .staleNew => n.staleNew
  | .programmeDone => n.programmeDone
  | .saturated => n.saturated

def AttentionCounts.put (n : AttentionCounts) (x : Nat) : AttentionKind → AttentionCounts
  | .staleNew => { n with staleNew := x }
  | .programmeDone => { n with programmeDone := x }
  | .saturated => { n with saturated := x }

/-- A kind is added to a record: its count rises by one if the record lacked it (R12). -/
def addAttention (i : Slot) (k : AttentionKind) (s : State) : State :=
  let r := s.station i
  if r.attention.has k then s
  else { s.setStation i { r with attention := r.attention.put true k } with
         counts := s.counts.put (s.counts.get k + 1) k }

/-- A kind leaves a record: its count falls by one if the record held it (R12). -/
def dropAttention (i : Slot) (k : AttentionKind) (s : State) : State :=
  let r := s.station i
  if r.attention.has k then
    { s.setStation i { r with attention := r.attention.put false k } with
      counts := s.counts.put (s.counts.get k - 1) k }
  else s

/-- The attention set is emptied, each kind it held lowering its count (R12, R15, R172 step 4). -/
def clearAttention (i : Slot) (s : State) : State :=
  dropAttention i .saturated (dropAttention i .programmeDone (dropAttention i .staleNew s))

/-! ### Freeing and unbinding (R15, R20) -/

/-- The record becomes FREE: every field takes its part reset value (R15). -/
def becomeFree (i : Slot) (s : State) : State := (clearAttention i s).setStation i .reset

/-- The record is unbound; a RETIRING record becomes FREE at that moment (R20). -/
def unbind (i : Slot) (s : State) : State :=
  let r := s.station i
  if r.state = .retiring then becomeFree i s else s.setStation i { r with binding := .none }

/-! ### Misses and reloads (R167 to R169) -/

/-- A miss is counted for the record: misses remaining falls by one in TRAINING and LOCKED, and at 0 the record
becomes STALE with STALE-NEW; a miss leaves a STALE record as it was (R167, R168). -/
def countMiss (i : Slot) (s : State) : State :=
  let r := s.station i
  if r.state = .training || r.state = .locked then
    if 1 ≤ r.missesRemaining - 1 then s.setStation i { r with missesRemaining := r.missesRemaining - 1 }
    else addAttention i .staleNew (s.setStation i { r with missesRemaining := 0, state := .stale })
  else s

/-- The state a STALE record returns to, by its step class (R8, R169). -/
def StepClass.revived : StepClass → RecordState
  | .coarse => .training
  | .fine => .locked

/-- A reload: misses remaining takes the miss reload, and a STALE record is revived (R169). -/
def reloadMisses (i : Slot) (s : State) : State :=
  let r := s.station i
  s.setStation i
    { r with missesRemaining := r.missReload,
             state := if r.state = .stale then r.stepClass.revived else r.state }

/-! ### Records the windows and bindings accept (R17, R59, R81) -/

/-- TRAINING, LOCKED or STALE (R2). -/
def RecordState.served : RecordState → Bool
  | .training => true
  | .locked => true
  | .stale => true
  | .free => false
  | .retiring => false

/-- The record in the slot is in TRAINING, LOCKED or STALE, carries the SID and carries the channel (R17, R81). -/
def stationMatches (s : State) (i : Slot) (v : Sid) (c : Channel) : Bool :=
  (s.station i).state.served && (s.station i).sid = v && (s.station i).channel = c

end Sys2Proof.Machine
end

