-- ==== Sys2Proof/Machine/Flags.lean ====
section
/-! DEFINITION. The flags of the Host Link and the NOTICE line. -/

namespace Sys2Proof.Machine

/-- The fault-flag character: FRAMING in bit 0, PARITY in bit 1, OVERRUN in bit 2, bits 3..7 zero (R195). -/
def Link.flagByte (l : Link) : Byte :=
  (0 : BitVec 5) ++ BitVec.ofBool l.overrun ++ BitVec.ofBool l.parity ++ BitVec.ofBool l.framing

/-- All three fault flags cleared, as when a response reports them (R186). -/
def Link.clearFlags (l : Link) : Link := { l with framing := false, parity := false, overrun := false }

/-- The flag of a faulty character (R181). -/
def Link.setFault (l : Link) : CharacterFault → Link
  | .framing => { l with framing := true }
  | .parity => { l with parity := true }

/-- Some fault flag is pending report (R186). -/
def Link.flagPending (l : Link) : Bool := l.framing || l.parity || l.overrun

/-- The part is selected: the receiver is in any state but DESELECTED (R182, R183). -/
def Link.selected (l : Link) : Bool := l.receiver ≠ .deselected

/-- Some channel is STARVED (R55). -/
def State.someStarved (s : State) : Bool := s.maps.toList.any fun m => m.state = .starved

/-- Some attention count is above 0 (R179). -/
def AttentionCounts.some (n : AttentionCounts) : Bool := 0 < n.staleNew || 0 < n.programmeDone || 0 < n.saturated

/-- NOTICE is asserted (R190, log entry 8). -/
def State.notice (s : State) : Bool :=
  !s.queue.isEmpty || !s.probes.isEmpty || s.counts.some || s.someStarved || s.probeOverflow || s.link.flagPending

end Sys2Proof.Machine
end

