-- ==== Sys2Proof/Machine/Reply.lean ====
section
/-! DEFINITION. Taking a request and sending its response (R184 to R186), shared by every request command and by the
checksum character. -/

namespace Sys2Proof.Machine

/-- The code of a status (R195). -/
def statusByte : Status → Byte
  | .ok => 0x00
  | .empty => 0x01
  | .notFound => 0x02
  | .busy => 0x03
  | .full => 0x04
  | .inUse => 0x05
  | .range => 0x06
  | .order => 0x07
  | .late => 0x08
  | .overlap => 0x09
  | .state => 0x0A
  | .checksum => 0x0B
  | .unknown => 0x0C
  | .length => 0x0D

/-- What a request answers: a status and a body, which is empty unless the status is OK (R185). -/
structure Reply where
  status : Status
  body : List Byte
  deriving DecidableEq, Repr

/-- A refusal, or EMPTY: the status alone, and the state as it was (R184, R188). -/
def refuse (status : Status) (s : State) : Reply × State := (⟨status, []⟩, s)

/-- OK with a body, and the state as the request leaves it. -/
def accept (body : List Byte) (s : State) : Reply × State := (⟨.ok, body⟩, s)

/-- The characters of a response: status, fault flags, length, body, checksum (R185, R195). -/
def responseFrame (flags : Byte) (r : Reply) : List Byte :=
  let length := byteOfNat r.body.length
  statusByte r.status :: flags :: length :: r.body
    ++ [statusByte r.status + (flags + (length + sumBytes r.body))]

/-- The receiver after a request is taken (R183). -/
def State.awaitCode (s : State) : State := { s with link := { s.link with receiver := .awaitCode } }

/-- OVERRUN is set (R186). -/
def State.setOverrun (s : State) : State := { s with link := { s.link with overrun := true } }

/-- The response begins: it carries the fault flags as they stand, and all three are cleared at that moment
(R185, R186). -/
def State.respond (s : State) (r : Reply) : State :=
  { s with link := { s.link.clearFlags with sending := some (responseFrame s.link.flagByte r) } }

/-- A request is taken. While a response is still being sent it is discarded whole and OVERRUN is set; otherwise it
takes its effect and the response begins (R184 check 1, R186). In both cases the receiver goes to AWAIT CODE. -/
def takeRequest (effect : State → Reply × State) (s : State) : State :=
  if s.link.sending.isSome then s.awaitCode.setOverrun
  else (effect s).2.awaitCode.respond (effect s).1

end Sys2Proof.Machine
end

