-- ==== Sys2Proof/Machine/Formats.lean ====
section
/-! DEFINITION. The layouts of response bodies (R196 to R198). -/

namespace Sys2Proof.Machine

/-- A signed field over 16 or 24 bits (R196). -/
def signed16 (x : Int) : List Byte := bytes16 (BitVec.ofInt 16 x)
def signed24 (x : Int) : List Byte := bytes24 (BitVec.ofInt 24 x)

/-- An unsigned field of two characters (R196). -/
def unsigned16 (n : Nat) : List Byte := bytes16 (BitVec.ofNat 16 n)

def slotBytes (i : Slot) : List Byte := unsigned16 i.val
def sidBytes (v : Sid) : List Byte := unsigned16 v.val
def channelByte (c : Channel) : Byte := byteOfNat c.val

/-- Timing, power, frequency: 3 + 2 + 2 characters (R196, R198). -/
def offsetBytes (o : Offsets) : List Byte := signed24 o.timing ++ signed16 o.power ++ signed16 o.frequency

/-- Timing adjust, power adjust, frequency adjust: 3 + 2 + 3 characters (R196). -/
def adjustBytes (o : Offsets) : List Byte := signed24 o.timing ++ signed16 o.power ++ signed24 o.frequency

def recordStateByte : RecordState → Byte
  | .free => 0
  | .training => 1
  | .locked => 2
  | .stale => 3
  | .retiring => 4

def kindByte : GrantKind → Byte
  | .data => 0
  | .maint => 1
  | .initial => 2

def channelStateByte : ChannelState → Byte
  | .off => 0
  | .starved => 1
  | .running => 2

def pendingStateByte : PendingMap → Byte
  | .empty => 0
  | .building _ => 1
  | .ready _ => 2

def verdictByte : Verdict → Byte
  | .none => 0
  | .adjust => 1
  | .settled => 2
  | .drop => 3

def stepClassByte : StepClass → Byte
  | .coarse => 0
  | .fine => 1

/-- Bit 0 STALE-NEW, bit 1 PROGRAMME-DONE, bit 2 SATURATED (R196). -/
def attentionByte (a : Attention) : Byte :=
  (0 : BitVec 5) ++ BitVec.ofBool a.saturated ++ BitVec.ofBool a.programmeDone ++ BitVec.ofBool a.staleNew

/-- Bits 0..1: NONE 0, HELD 1, QUEUED 2 (R196). -/
def correctionCode : CorrectionState → BitVec 2
  | .none => 0
  | .held => 1
  | .queued => 2

/-- Bits 0..1 the correction state, bit 7 the re-correct flag (R196). -/
def correctionByte (c : CorrectionState) (flag : Bool) : Byte :=
  BitVec.ofBool flag ++ (0 : BitVec 5) ++ correctionCode c

/-- none 00h; channel n burst 10h + n; engine m settling 20h + m (R196). -/
def bindingByte : Binding → Byte
  | .none => 0
  | .burst c => byteOfNat (0x10 + c.val)
  | .settling e => byteOfNat (0x20 + e.val)

/-- The tap count codes (R197). -/
def tapCode : TapCount → BitVec 2
  | .t8 => 1
  | .t16 => 2
  | .t24 => 3
  | .t32 => 0

/-- The coefficient set field of a response (R197). -/
def coefficientBytes : Option CoefficientSet → List Byte
  | none => [0x80]
  | some c => ((0 : BitVec 6) ++ tapCode c.count) :: byteOfNat c.main :: encodeCoefficients c.taps

/-- Last measured: a presence byte followed by its fields, zeros when absent (R196, R198). -/
def lastMeasuredBytes : Option Measured → List Byte
  | none => 0 :: 0 :: offsetBytes .zero
  | some m => 1 :: kindByte m.kind :: offsetBytes m.errors

/-- The record block (R198). -/
def recordBlock (i : Slot) (r : Station) : List Byte :=
  slotBytes i ++ [recordStateByte r.state] ++ sidBytes r.sid ++ [channelByte r.channel]
    ++ offsetBytes r.estimate ++ offsetBytes r.advertised ++ lastMeasuredBytes r.lastMeasured
    ++ [r.generation, stepClassByte r.stepClass, byteOfNat r.missReload, byteOfNat r.missesRemaining,
        byteOfBool r.armed, byteOfNat r.vector.val, byteOfNat r.remaining, verdictByte r.lastVerdict,
        byteOfBool r.exportWanted, correctionByte r.correction r.reCorrect, attentionByte r.attention,
        bindingByte r.binding]
    ++ coefficientBytes r.coefficients

/-- The correction block (R198). -/
def correctionBlock (e : Correction) : List Byte :=
  slotBytes e.slot ++ sidBytes e.sid ++ adjustBytes e.adjust ++ [verdictByte e.verdict]
    ++ coefficientBytes e.coefficients

/-- A probe entry, 20 characters (R197). -/
def probeBytes (p : Probe) : List Byte :=
  bytes48 p.token ++ [channelByte p.channel] ++ bytes32 p.arrival ++ offsetBytes p.errors
    ++ [byteOfNat p.sightings, byteOfNat p.age]

/-- The flag byte of the descriptor block: mode, notice on repeat, chain, export (R197). -/
def descriptorFlags (d : Descriptor) : Byte :=
  (0 : BitVec 4) ++ BitVec.ofBool d.exportSet ++ BitVec.ofBool d.chain ++ BitVec.ofBool d.noticeOnRepeat
    ++ BitVec.ofBool (d.mode = .repeating)

/-- The update mask byte (R197). -/
def maskByte (m : UpdateMask) : Byte :=
  (0 : BitVec 4) ++ BitVec.ofBool m.coefficients ++ BitVec.ofBool m.frequency ++ BitVec.ofBool m.power
    ++ BitVec.ofBool m.timing

/-- The descriptor block of a response (R197). -/
def descriptorBlock (d : Descriptor) : DescriptorBlock where
  flags := descriptorFlags d
  count := byteOfNat d.count
  mask := maskByte d.mask
  timingThreshold := BitVec.ofNat 16 d.timingThreshold
  powerThreshold := byteOfNat d.powerThreshold
  frequencyThreshold := BitVec.ofNat 16 d.frequencyThreshold
  passes := byteOfNat d.passes
  coarseShift := byteOfNat d.coarseShift
  fineShift := byteOfNat d.fineShift

/-- An engine's state, then the channel of a LIVE engine or the slot of a SETTLING one, or 0 (R113, R196). -/
def engineBytes (e : Engine) : List Byte :=
  match e.state with
  | .idle => 0 :: unsigned16 0
  | .live => 1 :: unsigned16 (match e.channel with | some c => c.val | none => 0)
  | .settling => 2 :: unsigned16 (match e.slot with | some i => i.val | none => 0)

/-- The number of records in a state (R189). -/
def countState (s : State) (x : RecordState) : Nat := s.stations.toList.countP fun r => r.state = x

/-- The status block, 34 characters (R189, R198). -/
def statusBlock (s : State) : List Byte :=
  [channelStateByte (s.map 0).state, channelStateByte (s.map 1).state, channelStateByte (s.map 2).state,
      channelStateByte (s.map 3).state]
    ++ unsigned16 (countState s .free) ++ unsigned16 (countState s .training) ++ unsigned16 (countState s .locked)
    ++ unsigned16 (countState s .stale) ++ unsigned16 (countState s .retiring)
    ++ unsigned16 s.counts.staleNew ++ unsigned16 s.counts.programmeDone ++ unsigned16 s.counts.saturated
    ++ [byteOfNat s.queue.length] ++ unsigned16 s.held.length ++ [byteOfNat s.probes.length]
    ++ [byteOfBool s.probeOverflow]
    ++ engineBytes (s.engine 0) ++ engineBytes (s.engine 1) ++ engineBytes (s.engine 2)

end Sys2Proof.Machine
end

