-- ==== Sys2Proof/Machine/Operands.lean ====
section
/-! DEFINITION. Reading the fields of a request: each gives the value, or none where R196 or R197 refuses it with
RANGE. The owning rule decides at which of its checks that refusal comes. -/

namespace Sys2Proof.Machine

/-- A SID of a host request that names a record: 0, 4,095 and values above are refused (R14, R196). -/
def readSid (v : BitVec 16) : Option Sid :=
  if h : v.toNat < 4096 then
    if v.toNat = 0 || v.toNat = 4095 then none else some ⟨v.toNat, h⟩
  else none

/-- A slot, 0..1023 (R24, R25). -/
def readSlot (v : BitVec 16) : Option Slot := if h : v.toNat < 1024 then some ⟨v.toNat, h⟩ else none

/-- A channel, 0..3. -/
def readChannel (v : Byte) : Option Channel := if h : v.toNat < 4 then some ⟨v.toNat, h⟩ else none

/-- A vector or descriptor index, 0..127. -/
def readIndex (v : Byte) : Option DescriptorId := if h : v.toNat < 128 then some ⟨v.toNat, h⟩ else none

/-- STALE-NEW 1, PROGRAMME-DONE 2, SATURATED 3 (R196). -/
def readAttentionKind (v : Byte) : Option AttentionKind :=
  if v = 1 then some .staleNew else if v = 2 then some .programmeDone else if v = 3 then some .saturated else none

/-- A list of attention kinds, refused as a whole when one is refused (R28). -/
def readAttentionKinds : List Byte → Option (List AttentionKind)
  | [] => some []
  | v :: rest =>
    match readAttentionKind v, readAttentionKinds rest with
    | some k, some kinds => some (k :: kinds)
    | _, _ => none

/-- DATA 0, MAINT 1, INITIAL 2 (R196). -/
def readGrantKind (v : Byte) : Option GrantKind :=
  if v = 0 then some .data else if v = 1 then some .maint else if v = 2 then some .initial else none

/-- COARSE 0, FINE 1 (R196). -/
def readStepClass (v : Byte) : Option StepClass :=
  if v = 0 then some .coarse else if v = 1 then some .fine else none

/-- The tap count of a code: 1 for 8, 2 for 16, 3 for 24, 0 for 32 (R197). -/
def tapCountOf (code : BitVec 2) : TapCount :=
  if code = 1 then .t8 else if code = 2 then .t16 else if code = 3 then .t24 else .t32

/-- A coefficient set field: refused where a reserved header bit is set or the main tap is not below the tap count
(R197); otherwise absent, or the set (R6). -/
def readCoefficientSet : CoefficientField → Option (Option CoefficientSet)
  | .absent low => if low = 0 then some none else none
  | .present code reserved main taps =>
    if reserved = 0 && main.toNat < (tapCountOf code).toNat then some (some ⟨tapCountOf code, main.toNat, taps⟩)
    else none

/-- The flag byte of a descriptor block: bits 4..7 are 0 (R197). -/
def readMask (v : Byte) : Option UpdateMask :=
  if v.toNat < 16 then some ⟨v.getLsbD 0, v.getLsbD 1, v.getLsbD 2, v.getLsbD 3⟩ else none

/-- A descriptor block: each field in the range of R129, checks 2 to 4. Every refusal among them is RANGE. -/
def readDescriptorBlock (d : DescriptorBlock) : Option Descriptor :=
  match readMask d.mask with
  | none => none
  | some mask =>
    if d.flags.toNat < 16 && 1 ≤ d.count.toNat && d.timingThreshold.toNat ≤ 4095 && d.powerThreshold.toNat ≤ 63
        && d.frequencyThreshold.toNat ≤ 4095 && d.passes.toNat ≤ 15 && 2 ≤ d.coarseShift.toNat
        && d.fineShift.toNat ≤ 12 && d.coarseShift.toNat ≤ d.fineShift.toNat then
      some { mode := if d.flags.getLsbD 0 then .repeating else .once, count := d.count.toNat,
             noticeOnRepeat := d.flags.getLsbD 1, chain := d.flags.getLsbD 2, mask := mask,
             timingThreshold := d.timingThreshold.toNat, powerThreshold := d.powerThreshold.toNat,
             frequencyThreshold := d.frequencyThreshold.toNat, passes := d.passes.toNat,
             coarseShift := d.coarseShift.toNat, fineShift := d.fineShift.toNat,
             exportSet := d.flags.getLsbD 3 }
    else none

end Sys2Proof.Machine
end

