-- ==== Sys2Proof/Machine/Corrections.lean ====
section
/-! DEFINITION. Chapter 8: correction entries, correction requests, the refill, withdrawal and TAKE CORRECTION. -/

namespace Sys2Proof.Machine

/-- The most entries the Correction Queue holds (R150). -/
def queueCapacity : Nat := 32

/-- The verdict an entry carries: the last verdict, ADJUST when that is NONE (R152). -/
def Verdict.told : Verdict → Verdict
  | .none => .adjust
  | .adjust => .adjust
  | .settled => .settled
  | .drop => .drop

/-- The entry built from a record as it stands (R152, R153). -/
def buildCorrection (i : Slot) (r : Station) : Correction where
  slot := i
  sid := r.sid
  adjust := r.estimate.minus r.advertised
  verdict := r.lastVerdict.told
  coefficients := if r.exportWanted then r.coefficients else none

/-- The record enters the queue: its entry is built now and appended at the tail, and it becomes QUEUED with the
re-correct flag clear (R153, R154, R160). -/
def enterQueue (i : Slot) (s : State) : State :=
  let r := s.station i
  { s.setStation i { r with correction := .queued, reCorrect := false } with
    queue := s.queue ++ [buildCorrection i r] }

/-- The slot joins the Held List at its tail and becomes HELD (R154). -/
def enterHeld (i : Slot) (s : State) : State :=
  { s.setStation i { s.station i with correction := .held, reCorrect := false } with held := s.held ++ [i] }

/-- A correction request for a record, by its correction state (R154, R155, R156). -/
def requestCorrection (i : Slot) (s : State) : State :=
  match (s.station i).correction with
  | .none => if s.queue.length < queueCapacity then enterQueue i s else enterHeld i s
  | .held => s
  | .queued => s.setStation i { s.station i with reCorrect := true }

/-- A freed place is offered to the head of the Held List (R160, R162). -/
def refill (s : State) : State :=
  match s.held with
  | [] => s
  | i :: rest => enterQueue i { s with held := rest }

/-- The record's correction state becomes NONE and its re-correct flag clear (R157 step 4, R162). -/
def clearCorrection (i : Slot) (s : State) : State :=
  s.setStation i { s.station i with correction := .none, reCorrect := false }

/-- Withdrawal at RETIRE, by the correction state (R162). -/
def withdrawCorrection (i : Slot) (s : State) : State :=
  match (s.station i).correction with
  | .none => clearCorrection i s
  | .held => clearCorrection i { s with held := s.held.filter fun j => j ≠ i }
  | .queued => refill (clearCorrection i { s with queue := s.queue.filter fun e => e.slot ≠ i })

/-- Steps 2 and 3 of R157 on the taken record: the advertised values move by the adjusts, clamped (R158), and an
entry with coefficients resets the set to the identity set of its shape and raises the generation (R159). -/
def applyTaken (e : Correction) (r : Station) : Station :=
  let moved := { r with advertised := (r.advertised.plus e.adjust).clamped }
  match e.coefficients with
  | none => moved
  | some c =>
    { moved with coefficients := some (.identity c.count c.main), generation := r.generation + 1 }

/-- The effect of TAKE CORRECTION on a non-empty queue whose head is `e` and whose rest is `rest` (R157). -/
def takeEntry (e : Correction) (rest : List Correction) (s : State) : State :=
  let flag := (s.station e.slot).reCorrect
  let moved := { s with queue := rest }.setStation e.slot (applyTaken e (s.station e.slot))
  let refilled := refill (clearCorrection e.slot moved)
  if flag then requestCorrection e.slot refilled else refilled

/-- TAKE CORRECTION (R157). -/
def takeCorrectionRequest (s : State) : Reply × State :=
  match s.queue with
  | [] => refuse .empty s
  | e :: rest =>
    let t := takeEntry e rest s
    accept (correctionBlock e ++ [byteOfNat t.queue.length]) t

/-- The command TAKE_CORRECTION. -/
def execTakeCorrection (s : State) : Host.Outcome State Fault Refusal :=
  .next (takeRequest takeCorrectionRequest s)

end Sys2Proof.Machine
end

