-- ==== Sys2Proof/Machine/Programmes.lean ====
section
/-! DEFINITION. Chapter 7: chains, maintenance completion with its verdict, and the requests on descriptors and
programmes. -/

namespace Sys2Proof.Machine

/-! ### Chains (R132) -/

/-- The indices of a chain of at most `room` steps that starts at index `i` (R132): a step's successor is taken while
its chain flag is set, fewer than four steps stand in the chain, and its index is below 127. -/
def chainFrom (s : State) : Nat → DescriptorId → List DescriptorId
  | 0, _ => []
  | room + 1, i =>
    if h : (s.descriptor i).chain ∧ i.val < 127 then
      i :: chainFrom s room ⟨i.val + 1, Nat.succ_lt_succ h.2⟩
    else [i]

/-- The steps of the chain at a vector, in order: 1..4 descriptors (R132). -/
def chainSteps (s : State) (vector : DescriptorId) : List Descriptor := (chainFrom s 4 vector).map s.descriptor

/-! ### The report (R109) -/

/-- What a maintenance completion is handed (R109): `set` and `mode` say whether an engine served the burst. -/
structure Report where
  slot : Slot
  errors : Offsets
  set : Option CoefficientSet
  generation : BitVec 8
  allPasses : Bool
  saturated : Bool
  deriving DecidableEq, Repr

/-- The report of a burst that ran in BYPASS: no set for write-back, saturation clear (R109). -/
def bypassReport (i : Slot) (errors : Offsets) : Report := ⟨i, errors, none, 0, true, false⟩

/-! ### Steps (R140, R141) -/

/-- The walk over a chain: the record as written so far, whether every quantity so far was within, and the result of
the write-back once a step has made it (R110). -/
structure Walk where
  record : Station
  within : Bool
  writeBack : Option Bool
  deriving DecidableEq, Repr

/-- |new estimate − advertised| is at or below the threshold (R140 step 3). -/
def withinThreshold (estimate advertised : Int) (threshold : Nat) : Bool := (estimate - advertised).natAbs ≤ threshold

/-- The TIMING quantity of a step (R140). -/
def timingStep (d : Descriptor) (p : Report) (w : Walk) : Walk :=
  if d.mask.timing then
    let x := clampTiming (w.record.advertised.timing + p.errors.timing)
    { w with record := { w.record with estimate := { w.record.estimate with timing := x } },
             within := w.within && withinThreshold x w.record.advertised.timing d.timingThreshold }
  else w

/-- The POWER quantity of a step (R140). -/
def powerStep (d : Descriptor) (p : Report) (w : Walk) : Walk :=
  if d.mask.power then
    let x := clampPower (w.record.advertised.power + p.errors.power)
    { w with record := { w.record with estimate := { w.record.estimate with power := x } },
             within := w.within && withinThreshold x w.record.advertised.power d.powerThreshold }
  else w

/-- The FREQUENCY quantity of a step (R140). -/
def frequencyStep (d : Descriptor) (p : Report) (w : Walk) : Walk :=
  if d.mask.frequency then
    let x := clampFrequency (w.record.advertised.frequency + p.errors.frequency)
    { w with record := { w.record with estimate := { w.record.estimate with frequency := x } },
             within := w.within && withinThreshold x w.record.advertised.frequency d.frequencyThreshold }
  else w

/-- The set that is written back, if the write-back is not skipped: there is an engine's set, and the record's
generation still equals the loaded one (R110). -/
def writeBackSet (p : Report) (r : Station) : Option CoefficientSet :=
  if r.generation = p.generation then p.set else none

/-- The COEFFICIENTS quantity of a step: the write-back is made at the first such step and its result kept for the
later ones (R110, R141). -/
def coefficientStep (d : Descriptor) (p : Report) (w : Walk) : Walk :=
  if d.mask.coefficients then
    let settled := p.allPasses && !p.saturated
    match w.writeBack with
    | some written => { w with within := w.within && (written && settled) }
    | none =>
      match writeBackSet p w.record with
      | some set =>
        { record := { w.record with coefficients := some set }, within := w.within && settled, writeBack := some true }
      | none => { w with within := false, writeBack := some false }
  else w

/-- One step of the chain: TIMING, POWER, FREQUENCY, then COEFFICIENTS (R140, R141). -/
def chainStep (p : Report) (w : Walk) (d : Descriptor) : Walk :=
  coefficientStep d p (frequencyStep d p (powerStep d p (timingStep d p w)))

/-- The whole walk from a record. -/
def walkChain (p : Report) (r : Station) (steps : List Descriptor) : Walk :=
  steps.foldl (chainStep p) ⟨r, true, none⟩

/-! ### Verdict, counting, state and correction want (R142 to R146) -/

/-- SETTLED when every quantity of every step is within, else ADJUST (R142). -/
def runVerdict (within : Bool) : Verdict := if within then .settled else .adjust

/-- A ONCE programme that runs out on a record still training makes ADJUST into DROP (R143 step 3). -/
def dropVerdict (r : Station) (v : Verdict) : Verdict :=
  if v = .adjust ∧ (r.state = .training ∨ (r.state = .stale ∧ r.stepClass = .coarse)) then .drop else v

/-- What counting leaves: the programme fields of the record, the verdict, and whether PROGRAMME-DONE is added. -/
structure Counted where
  record : Station
  verdict : Verdict
  done : Bool
  deriving DecidableEq, Repr

/-- Counting a run against the programme whose first step is `first` (R143, R144). A count that ARM PROGRAMME wrote just
before the completion is lowered like any other, against a sentence of R138: the model's choice (DEDUCED, log
entry 22). -/
def countRun (first : Descriptor) (r : Station) (v : Verdict) : Counted :=
  let left := r.remaining - 1
  if 1 ≤ left then ⟨{ r with remaining := left }, v, false⟩
  else
    match first.mode with
    | .once => ⟨{ r with armed := false, remaining := 0 }, dropVerdict r v, true⟩
    | .repeating => ⟨{ r with remaining := first.count }, v, first.noticeOnRepeat⟩

/-- The move of the record by the saturation mark and the verdict (R145). A LOCKED record that stays LOCKED keeps its
step class: R145's row names none there, so that the class is not written (R8, R147). The last sentence of R171 is read
of a record whose class WRITE STATION has not changed (DEDUCED, log entry 20). -/
def moveRecord (saturated : Bool) (v : Verdict) (r : Station) : Station :=
  match r.state with
  | .training =>
    if saturated then { r with stepClass := .coarse }
    else if v = .settled then { r with state := .locked, stepClass := .fine } else r
  | .locked => if saturated then { r with state := .training, stepClass := .coarse } else r
  | .stale =>
    if saturated then { r with stepClass := .coarse }
    else if v = .settled then { r with stepClass := .fine } else r
  | .free => r
  | .retiring => r

/-- A correction is wanted: on ADJUST or DROP, and on SETTLED after anything else (R146 step 1). -/
def correctionWanted (v last : Verdict) : Bool := v ≠ .settled || last ≠ .settled

/-- Some step exports and names COEFFICIENTS (R146 step 3). -/
def exportsSet (steps : List Descriptor) : Bool := steps.any fun d => d.exportSet && d.mask.coefficients

/-- Attention added to a record when a condition holds. -/
def addAttentionIf (b : Bool) (i : Slot) (k : AttentionKind) (s : State) : State :=
  if b then addAttention i k s else s

/-- The record an armed completion leaves, before attention, correction and unbinding (R140 to R146). -/
def completedRecord (s : State) (p : Report) : Counted :=
  let r := s.station p.slot
  let steps := chainSteps s r.vector
  let w := walkChain p r steps
  let c := countRun (s.descriptor r.vector) w.record (runVerdict w.within)
  { c with record :=
      { moveRecord p.saturated c.verdict c.record with lastVerdict := c.verdict, exportWanted := exportsSet steps } }

/-- Maintenance completion (R139 to R146): with the programme disarmed only SATURATED may be added; with it armed the
chain is walked, the run counted, the record moved and a wanted correction requested. Last, the record is unbound. -/
def complete (p : Report) (s : State) : State :=
  let r := s.station p.slot
  if r.armed then
    let c := completedRecord s p
    let marked := addAttentionIf p.saturated p.slot .saturated
      (addAttentionIf c.done p.slot .programmeDone (s.setStation p.slot c.record))
    unbind p.slot (if correctionWanted c.verdict r.lastVerdict then requestCorrection p.slot marked else marked)
  else unbind p.slot (addAttentionIf p.saturated p.slot .saturated s)

/-! ### Requests -/

/-- Runs a request on the record a SID names: RANGE for 0 and 4,095, NOT-FOUND for an empty entry (R14). -/
def withSid (v : BitVec 16) (act : Slot → State → Reply × State) (s : State) : Reply × State :=
  match readSid v with
  | none => refuse .range s
  | some sid =>
    match s.sidEntry sid with
    | none => refuse .notFound s
    | some i => act i s

/-- The programme of a record becomes armed at a vector with the count of its descriptor as it stands (R136). -/
def armRecord (s : State) (vector : DescriptorId) (r : Station) : Station :=
  { r with armed := true, vector := vector, remaining := (s.descriptor vector).count }

/-- ARM PROGRAMME (R136). -/
def armProgrammeRequest (sid : BitVec 16) (vector : Byte) (s : State) : Reply × State :=
  withSid sid (fun i s =>
    match readIndex vector with
    | none => refuse .range s
    | some v =>
      accept [byteOfNat v.val, byteOfNat (s.descriptor v).count] (s.setStation i (armRecord s v (s.station i)))) s

/-- The programme becomes disarmed and remaining 0; the vector keeps its value (R137). -/
def disarmRecord (r : Station) : Station := { r with armed := false, remaining := 0 }

/-- DISARM PROGRAMME (R137). -/
def disarmProgrammeRequest (sid : BitVec 16) (s : State) : Reply × State :=
  withSid sid (fun i s => accept [] (s.setStation i (disarmRecord (s.station i)))) s

/-- SET DESCRIPTOR (R129). -/
def setDescriptorRequest (index : Byte) (block : DescriptorBlock) (s : State) : Reply × State :=
  match readIndex index, readDescriptorBlock block with
  | some i, some d => accept [index] (s.setDescriptor i d)
  | _, _ => refuse .range s

/-- READ DESCRIPTOR (R131). -/
def readDescriptorRequest (index : Byte) (s : State) : Reply × State :=
  match readIndex index with
  | some i => accept (index :: (descriptorBlock (s.descriptor i)).encode) s
  | none => refuse .range s

/-- The command ARM_PROGRAMME. -/
def execArmProgramme (sid : BitVec 16) (vector : Byte) (s : State) : Host.Outcome State Fault Refusal :=
  .next (takeRequest (armProgrammeRequest sid vector) s)

/-- The command DISARM_PROGRAMME. -/
def execDisarmProgramme (sid : BitVec 16) (s : State) : Host.Outcome State Fault Refusal :=
  .next (takeRequest (disarmProgrammeRequest sid) s)

/-- The command SET_DESCRIPTOR. -/
def execSetDescriptor (index : Byte) (block : DescriptorBlock) (s : State) : Host.Outcome State Fault Refusal :=
  .next (takeRequest (setDescriptorRequest index block) s)

/-- The command READ_DESCRIPTOR. -/
def execReadDescriptor (index : Byte) (s : State) : Host.Outcome State Fault Refusal :=
  .next (takeRequest (readDescriptorRequest index) s)

end Sys2Proof.Machine
end

