-- ==== Sys2Proof/Machine/Engines.lean ====
section
/-! DEFINITION. Chapter 5: loading, filtering, adaptation, the arbiter, settling and its end. -/

namespace Sys2Proof.Machine

/-! ### Loading (R93, R94) -/

/-- The shift a descriptor gives a step class (R8, R94). -/
def Descriptor.shiftFor (d : Descriptor) : StepClass → Nat
  | .coarse => d.coarseShift
  | .fine => d.fineShift

/-- The context of an engine just granted to a request, read from the record and the descriptor at its vector as they
stand (R93, R94). -/
def loadedEngine (q : EngineRequest) (r : Station) (d : Descriptor) : Engine :=
  let adapting := q.kind = .maint && r.armed
  { Engine.reset with
    state := .live
    channel := some q.channel
    slot := some q.slot
    kind := some q.kind
    working := some (r.coefficients.getD .whenAbsent)
    generation := r.generation
    armed := adapting
    shift := if adapting then some (d.shiftFor r.stepClass) else none
    passes := if adapting then d.passes else 0 }

/-- The grant reaches the requesting channel's sequencer (R64, R67): the engine item names the engine, a WAITING
sequencer becomes LIVE, a GRACE sequencer stays GRACE. -/
def grantReaches (c : Channel) (e : EngineId) (s : State) : State :=
  let b := s.burst c
  s.setBurst c { b with engine := .granted e, state := if b.state = .waiting then .live else b.state }

/-- An engine is granted to a request: it is loaded and the grant reaches the sequencer (R88, R91, R93, R94). -/
def grantEngine (e : EngineId) (q : EngineRequest) (s : State) : State :=
  let r := s.station q.slot
  grantReaches q.channel e (s.setEngine e (loadedEngine q r (s.descriptor r.vector)))

/-! ### Filtering and adaptation (R96 to R101) -/

/-- The value `k` places back in the delay line (R96). -/
def Engine.placesBack (e : Engine) (k : Nat) : Exact :=
  exactOf (e.delayLine[(e.writePos.val + 32 - k % 32) % 32]'(Nat.mod_lt _ (by decide)))

/-- The exact sum over the taps from tap `k` on of coefficient times value, in units of 1/2^30 (R97). -/
def Engine.sumTaps (e : Engine) : Nat → List Cplx → Exact
  | _, [] => ⟨0, 0⟩
  | k, c :: rest => ((exactOf c).times (e.placesBack k)).plus (e.sumTaps (k + 1) rest)

/-- The rounded output, not yet clipped (R97). -/
def Engine.roundedOutput (e : Engine) (taps : List Cplx) : Exact :=
  let x := e.sumTaps 0 taps
  ⟨roundShift x.re 15, roundShift x.im 15⟩

/-- The change of one coefficient: error times the conjugate of its value, over 2^shift, rounded (R100 steps 1 to 3). -/
def coefficientChange (shift : Nat) (error value : Exact) : Exact :=
  let x := error.timesConj value
  ⟨roundShift x.re (15 + shift), roundShift x.im (15 + shift)⟩

/-- A coefficient plus its change, not yet clamped (R100 step 4). -/
def Engine.changedTap (e : Engine) (shift : Nat) (error : Exact) (k : Nat) (c : Cplx) : Exact :=
  (exactOf c).plus (coefficientChange shift error (e.placesBack k))

/-- Every coefficient updated and clamped, and whether some part was clamped (R100). -/
def Engine.adaptTaps (e : Engine) (shift : Nat) (error : Exact) : Nat → List Cplx → List Cplx × Bool
  | _, [] => ([], false)
  | k, c :: rest =>
    let x := e.changedTap shift error k c
    let r := e.adaptTaps shift error (k + 1) rest
    (x.limited :: r.1, x.exceeds || r.2)

/-- The error: training reference minus clipped output, exactly (R99). -/
def trainingError (reference output : Cplx) : Exact :=
  ⟨reference.re.toInt - output.re.toInt, reference.im.toInt - output.im.toInt⟩

/-- An adapting engine adapts on a symbol with a reference (R99, R100); a non-adapting one has no shift. -/
def Engine.adapt (e : Engine) (set : CoefficientSet) (reference output : Cplx) : Engine :=
  match e.shift with
  | none => e
  | some shift =>
    let r := e.adaptTaps shift (trainingError reference output) 0 set.taps
    { e with working := some { set with taps := r.1 }, saturated := e.saturated || r.2 }

/-- The set an engine filters with. A LIVE or SETTLING engine has one (R93). -/
def Engine.filterSet (e : Engine) : CoefficientSet := e.working.getD .whenAbsent

/-- A received sample enters the delay line at the write position (R96). -/
def Engine.take (e : Engine) (sample : Cplx) : Engine :=
  { e with delayLine := e.delayLine.set e.writePos sample }

/-- The clipped output for the sample taken last (R97, R98). -/
def Engine.output (e : Engine) : Cplx := (e.roundedOutput e.filterSet.taps).limited

/-- Some part of that output was clipped (R98). -/
def Engine.clipped (e : Engine) : Bool := (e.roundedOutput e.filterSet.taps).exceeds

/-- The write position advances by one, from 31 to 0 (R96). -/
def Engine.advance (e : Engine) : Engine := { e with writePos := e.writePos + 1 }

/-- One training symbol: the sample is taken, the output formed, the coefficients adapted, and the write position
advances (R96 to R100). -/
def Engine.train (e : Engine) (sample reference : Cplx) : Engine :=
  let t := e.take sample
  (t.adapt t.filterSet reference t.output).advance

/-- The training buffer takes a pair while it holds fewer than 64 (R101). -/
def Engine.keep (e : Engine) (sample reference : Cplx) : Engine :=
  if e.training.length < 64 then { e with training := e.training ++ [(sample, reference)] } else e

/-- A symbol of a live burst (R96 to R101): an adapting engine adapts on it and keeps it when it has a reference;
otherwise it is only filtered and its reference, if any, dropped. -/
def Engine.handle (e : Engine) (sample : Cplx) (reference : Option Cplx) : Engine :=
  match reference with
  | some x => if e.armed then (e.train sample x).keep sample x else (e.take sample).advance
  | none => (e.take sample).advance

/-! ### Settling (R103 to R106) -/

/-- The start of a pass: the delay line is zero and the write position 0 (R104). -/
def Engine.startPass (e : Engine) : Engine :=
  { e with delayLine := Vector.replicate 32 Cplx.zero, writePos := 0 }

/-- The work of one pass: each pair of the training buffer in order (R104). -/
def Engine.runPass (e : Engine) : Engine := e.training.foldl (fun x p => x.train p.1 p.2) e

/-- The end of a pass: it is counted and checkpointed (R104). -/
def Engine.endPass (e : Engine) : Engine :=
  { e with passesDone := e.passesDone + 1, checkpoint := e.working, checkpointMark := e.saturated }

/-- Settling begins, with its first pass (R103). -/
def Engine.beginSettling (e : Engine) (now : Tick) (errors : Offsets) : Engine :=
  { e with state := .settling, channel := none, settlingStart := some now, passesDone := 0,
           checkpoint := e.working, checkpointMark := e.saturated, errors := some errors }.startPass

/-- The report at END: the working set and the mark as they stand (R102, R109). -/
def liveReport (e : Engine) (i : Slot) (errors : Offsets) (allPasses : Bool) : Report :=
  ⟨i, errors, e.working, e.generation, allPasses, e.saturated⟩

/-- The report of a settling engine: the checkpoint set and mark (R105, R106, R109). -/
def settlingReport (e : Engine) (i : Slot) (errors : Offsets) (allPasses : Bool) : Report :=
  ⟨i, errors, e.checkpoint, e.generation, allPasses, e.checkpointMark⟩

/-- The maintenance completion of a settling engine's burst (R105, R106). A SETTLING engine holds a slot and
measurements (R103). -/
def completeSettling (e : EngineId) (allPasses : Bool) (s : State) : State :=
  match (s.engine e).slot, (s.engine e).errors with
  | some i, some errors => complete (settlingReport (s.engine e) i errors allPasses) s
  | _, _ => s

/-! ### The arbiter (R88 to R91) -/

/-- An engine is released: the first waiting request is granted it, or it becomes IDLE (R91). -/
def releaseEngine (e : EngineId) (s : State) : State :=
  match s.waiting with
  | [] => s.setEngine e .reset
  | q :: rest => grantEngine e q { s with waiting := rest }

/-- Of two requests, the one with the earlier arrival stands first; of two equal arrivals the lower channel (R90). -/
def standsBefore (a b : EngineRequest) : Bool :=
  a.arrival.earlier b.arrival || (a.arrival = b.arrival && a.channel < b.channel)

/-- A request takes its place in the waiting order (R90). -/
def joinOrder (q : EngineRequest) : List EngineRequest → List EngineRequest
  | [] => [q]
  | x :: rest => if standsBefore q x then q :: x :: rest else x :: joinOrder q rest

/-- A channel's request is withdrawn; the requests after it keep their order (R90). -/
def withdrawRequest (c : Channel) (s : State) : State :=
  { s with waiting := s.waiting.filter fun q => q.channel ≠ c }

/-- The lowest-numbered IDLE engine (R88). -/
def idleEngine (s : State) : Option EngineId := (List.finRange 3).find? fun e => (s.engine e).state = .idle

/-- The SETTLING engines, in order of number. -/
def settlingEngines (s : State) : List EngineId := (List.finRange 3).filter fun e => (s.engine e).state = .settling

/-- Engine `a` is pre-empted rather than `b`: its settling start is before `b`'s, or the same and `a` is the lower
number (R89). -/
def settledLonger (s : State) (a b : EngineId) : Bool :=
  match (s.engine a).settlingStart, (s.engine b).settlingStart with
  | some x, some y => isBefore x y || (x = y && a < b)
  | _, _ => false

/-- The SETTLING engine whose settling start is earliest (R89). Where the modular comparison makes none of them the
earliest, the rule does not say which is taken: a free choice (log entry 10). -/
def preemptedEngine (s : State) : Option EngineId × State :=
  let all := settlingEngines s
  match all.find? fun a => all.all fun b => a = b || settledLonger s a b with
  | some e => (some e, s)
  | none => s.pick all

/-- An engine request (R88, R89): an IDLE engine is granted; failing that the earliest settling is pre-empted, its
completion taken, and its engine granted; failing that the request joins the waiting order. -/
def requestEngine (q : EngineRequest) (s : State) : State :=
  match idleEngine s with
  | some e => grantEngine e q s
  | none =>
    match preemptedEngine s with
    | (some e, t) => grantEngine e q (completeSettling e false t)
    | (none, _) => { s with waiting := joinOrder q s.waiting }

/-- A DETECT that binds the record a settling engine holds ends that settling first: its completion is taken with "not
all passes" and the engine is released (R18, R106). -/
def preemptRecord (e : EngineId) (s : State) : State := releaseEngine e (completeSettling e false s)

/-- The pass-completion event of a SETTLING engine (R104, R105). -/
def completePass (e : EngineId) (s : State) : State :=
  let x := (s.engine e).runPass.endPass
  if x.passesDone < x.passes then s.setEngine e x.startPass
  else releaseEngine e (completeSettling e true (s.setEngine e x))

/-- The command PASS_COMPLETION. Only a SETTLING engine has a pass in progress; for another there is no such event and
nothing changes (log entry 6). -/
def execPassCompletion (e : EngineId) (s : State) : Host.Outcome State Fault Refusal :=
  .next (if (s.engine e).state = .settling then completePass e s else s)

end Sys2Proof.Machine
end

