-- ==== Sys2Proof/Machine/Probes.lean ====
section
/-! DEFINITION. Chapter 6: claims, aging and the requests on the Probe List. -/

namespace Sys2Proof.Machine

/-- The most entries the Probe List holds (R114). -/
def probeCapacity : Nat := 16

/-- A claim handed over at the END of a clean contention burst (R79). -/
structure ProbeClaim where
  token : Token
  channel : Channel
  arrival : Tick
  errors : Offsets
  deriving DecidableEq, Repr

/-- The entry a claim creates (R116, R117). -/
def newProbe (c : ProbeClaim) : Probe := ⟨c.token, c.channel, c.arrival, c.errors, 1, 0⟩

/-- An entry refreshed by a claim: everything but the token replaced, one more sighting held at 255, age 0 (R116,
R118). -/
def refreshProbe (c : ProbeClaim) (p : Probe) : Probe :=
  ⟨p.token, c.channel, c.arrival, c.errors, if p.sightings < 255 then p.sightings + 1 else 255, 0⟩

/-- Some entry carries the token. -/
def holdsToken (probes : List Probe) (t : Token) : Bool := probes.any fun p => p.token = t

/-- A claim taken by the Probe List: a refresh in place, a new entry at the end, or, with the list full, a dropped
claim and the probe-overflow flag (R117, R118, R119). -/
def takeClaim (c : ProbeClaim) (s : State) : State :=
  if holdsToken s.probes c.token then
    { s with probes := s.probes.map fun p => if p.token = c.token then refreshProbe c p else p }
  else if s.probes.length < probeCapacity then { s with probes := s.probes ++ [newProbe c] }
  else { s with probeOverflow := true }

/-- Aging of one entry at a promotion notice for a channel: none when it is removed (R121). -/
def ageProbe (lifetime : Nat) (c : Channel) (p : Probe) : Option Probe :=
  if p.channel = c then if p.age + 1 ≤ lifetime then some { p with age := p.age + 1 } else none
  else some p

/-- A promotion notice: the entries of the channel age, and those past the lifetime leave (R121). -/
def ageProbes (c : Channel) (s : State) : State :=
  { s with probes := s.probes.filterMap (ageProbe s.probeLifetime c) }

/-- The entry that carries the token leaves the list (R115). -/
def removeProbe (t : Token) (s : State) : State := { s with probes := s.probes.filter fun p => p.token ≠ t }

/-- PROBES: the count, the starting position, and at most 12 entries from there on (R123). -/
def probesRequest (position : Byte) (s : State) : Reply × State :=
  if position.toNat ≤ 15 then
    accept (byteOfNat s.probes.length :: position :: ((s.probes.drop position.toNat).take 12).flatMap probeBytes) s
  else refuse .range s

/-- DISMISS (R124). -/
def dismissRequest (token : Token) (s : State) : Reply × State :=
  if holdsToken s.probes token then
    let t := removeProbe token s
    accept [byteOfNat t.probes.length] t
  else refuse .notFound s

/-- The command PROBES. -/
def execProbes (position : Byte) (s : State) : Host.Outcome State Fault Refusal :=
  .next (takeRequest (probesRequest position) s)

/-- The command DISMISS. -/
def execDismiss (token : Token) (s : State) : Host.Outcome State Fault Refusal :=
  .next (takeRequest (dismissRequest token) s)

end Sys2Proof.Machine
end

