-- ==== Sys2Proof/Machine/Stations.lean ====
section
/-! DEFINITION. The requests on station records: chapter 1 (R14, R21 to R28) and RETIRE (R162, R172 to R175). -/

namespace Sys2Proof.Machine

/-! ### ADMIT (R21 to R23) -/

/-- The values of an ADMIT whose body passes check 1 of R21. -/
structure Admission where
  sid : Sid
  channel : Channel
  missReload : Nat
  vector : Option DescriptorId
  token : Option Token
  coefficients : Option CoefficientSet
  deriving DecidableEq, Repr

/-- An optional vector: refused when it is given and lies outside 0..127. -/
def readOptionalIndex : Option Byte → Option (Option DescriptorId)
  | none => some none
  | some v =>
    match readIndex v with
    | some i => some (some i)
    | none => none

/-- Check 1 of R21: every supplied value in its range, the reserved presence bits zero (R199). -/
def readAdmission (a : AdmitBody) : Option Admission :=
  match readSid a.sid, readChannel a.channel, readOptionalIndex a.vector, readCoefficientSet a.coefficients with
  | some sid, some channel, some vector, some coefficients =>
    if 1 ≤ a.missReload.toNat && a.reserved = 0 then
      some ⟨sid, channel, a.missReload.toNat, vector, a.token, coefficients⟩
    else none
  | _, _, _, _ => none

/-- The lowest-numbered slot whose record is FREE (R15). -/
def lowestFree (s : State) : Option Slot := (List.finRange 1024).find? fun i => (s.station i).state = .free

/-- The programme fields at ADMIT: armed at the vector with its descriptor's count as it stands, or disarmed with
vector 0 and remaining 0 (R22). -/
def admittedProgramme (s : State) (vector : Option DescriptorId) (r : Station) : Station :=
  match vector with
  | some v => armRecord s v r
  | none => { r with armed := false, vector := 0, remaining := 0 }

/-- The record that an accepted ADMIT writes (R22). -/
def admittedRecord (s : State) (a : Admission) : Station :=
  admittedProgramme s a.vector
    { Station.reset with
      state := .training, sid := a.sid, channel := a.channel, coefficients := a.coefficients,
      missReload := a.missReload, missesRemaining := a.missReload }

/-- The record and the SID Map entry written (R22). -/
def writeAdmission (i : Slot) (a : Admission) (s : State) : State :=
  (s.setStation i (admittedRecord s a)).setSidEntry a.sid (some i)

/-- The entry of the Probe List that carries a token. -/
def findProbe (s : State) (t : Token) : Option Probe := s.probes.find? fun p => p.token = t

/-- A probe-sourced admission (R23): the probe's measurements become the estimates, clamped; the entry leaves the
list; a correction request is made. -/
def admitFromProbe (i : Slot) (p : Probe) (s : State) : State :=
  requestCorrection i
    (removeProbe p.token (s.setStation i { s.station i with estimate := p.errors.clamped }))

/-- ADMIT from check 2 of R21 on. -/
def admitChecked (a : Admission) (s : State) : Reply × State :=
  if (s.sidEntry a.sid).isSome then refuse .inUse s
  else
    match lowestFree s with
    | none => refuse .full s
    | some i =>
      match a.token with
      | none => accept (slotBytes i) (writeAdmission i a s)
      | some t =>
        match findProbe s t with
        | none => refuse .notFound s
        | some p => accept (slotBytes i) (admitFromProbe i p (writeAdmission i a s))

/-- ADMIT (R21 to R23). A body whose coefficient field has another number of coefficients than its tap count code says
cannot be sent whole; it answers LENGTH (R199, log entry 13). -/
def admitRequest (body : AdmitBody) (s : State) : Reply × State :=
  if body.coefficients.wellFormed then
    match readAdmission body with
    | none => refuse .range s
    | some a => admitChecked a s
  else refuse .length s

/-! ### LOOKUP, LOOKUP SLOT and SCAN (R24, R25) -/

/-- LOOKUP (R24). -/
def lookupRequest (sid : BitVec 16) (s : State) : Reply × State :=
  withSid sid (fun i s => accept (recordBlock i (s.station i)) s) s

/-- LOOKUP SLOT (R24). -/
def lookupSlotRequest (slot : BitVec 16) (s : State) : Reply × State :=
  match readSlot slot with
  | some i => accept (recordBlock i (s.station i)) s
  | none => refuse .range s

/-- The first slot from `start` upward whose attention set holds the kind (R25). -/
def scanFrom (s : State) (start : Slot) (k : AttentionKind) : Option Slot :=
  (List.finRange 1024).find? fun i => start ≤ i && (s.station i).attention.has k

/-- SCAN (R25). -/
def scanRequest (slot : BitVec 16) (kind : Byte) (s : State) : Reply × State :=
  match readSlot slot, readAttentionKind kind with
  | some start, some k =>
    match scanFrom s start k with
    | some i => accept (slotBytes i ++ sidBytes (s.station i).sid) s
    | none => refuse .empty s
  | _, _ => refuse .range s

/-! ### WRITE STATION (R26, R27) -/

/-- The effect of one setting on a record, or none where its value fails check 2 of R26. A coefficient set setting
raises the generation by one, whatever it holds (R7, R27). A setting without a field writes nothing; the request that
carries one has been refused before (R196). -/
def applySetting (r : Station) : Setting → Option Station
  | .channel v =>
    match readChannel v with
    | some c => some { r with channel := c }
    | none => none
  | .timingEstimate v =>
    if timingInRange v.toInt then some { r with estimate := { r.estimate with timing := v.toInt } } else none
  | .powerEstimate v =>
    if powerInRange v.toInt then some { r with estimate := { r.estimate with power := v.toInt } } else none
  | .frequencyEstimate v => some { r with estimate := { r.estimate with frequency := v.toInt } }
  | .advertisedTiming v =>
    if timingInRange v.toInt then some { r with advertised := { r.advertised with timing := v.toInt } } else none
  | .advertisedPower v =>
    if powerInRange v.toInt then some { r with advertised := { r.advertised with power := v.toInt } } else none
  | .advertisedFrequency v => some { r with advertised := { r.advertised with frequency := v.toInt } }
  | .coefficients field =>
    match readCoefficientSet field with
    | some set => some { r with coefficients := set, generation := r.generation + 1 }
    | none => none
  | .missReload v => if 1 ≤ v.toNat then some { r with missReload := v.toNat } else none
  | .stepClass v =>
    match readStepClass v with
    | some x => some { r with stepClass := x }
    | none => none
  | .unknown _ _ => none

/-- All the settings of a list applied to a record, or none where one of them is refused. -/
def applySettings (r : Station) : List Setting → Option Station
  | [] => some r
  | x :: rest =>
    match applySetting r x with
    | some r' => applySettings r' rest
    | none => none

/-- No field is named twice (R26 check 2). -/
def namesDistinct : List Setting → Bool
  | [] => true
  | x :: rest => !(rest.any fun y => y.identifier = x.identifier) && namesDistinct rest

/-- A setting that a bound record takes: the miss reload or the step class (R26 check 3). -/
def Setting.allowedBound : Setting → Bool
  | .missReload _ => true
  | .stepClass _ => true
  | .channel _ => false
  | .timingEstimate _ => false
  | .powerEstimate _ => false
  | .frequencyEstimate _ => false
  | .advertisedTiming _ => false
  | .advertisedPower _ => false
  | .advertisedFrequency _ => false
  | .coefficients _ => false
  | .unknown _ _ => false

/-- WRITE STATION on the record in a slot, from check 2 of R26 on. -/
def writeStationAt (settings : List Setting) (i : Slot) (s : State) : Reply × State :=
  if namesDistinct settings then
    match applySettings (s.station i) settings with
    | none => refuse .range s
    | some r =>
      if (s.station i).binding ≠ .none && !settings.all Setting.allowedBound then refuse .busy s
      else accept (slotBytes i ++ [r.generation]) (s.setStation i r)
  else refuse .range s

/-- The setting names a field of R199's table. -/
def Setting.known : Setting → Bool
  | .unknown _ _ => false
  | _ => true

/-- WRITE STATION (R26, R27). A list of settings that no body spells answers LENGTH (R199, log entry 13). An identifier
outside 1..10 is covered by no check of R26, so it is refused before the first of them (R196, R199, log entry 12). -/
def writeStationRequest (sid : BitVec 16) (settings : List Setting) (s : State) : Reply × State :=
  if settingsSpelled settings then
    if settings.all Setting.known then withSid sid (writeStationAt settings) s else refuse .range s
  else refuse .length s

/-! ### ACK ATTENTION (R28) -/

/-- The named kinds leave a record, each kind removed lowering its count (R12, R28). -/
def dropKinds (i : Slot) : List AttentionKind → State → State
  | [], s => s
  | k :: rest, s => dropKinds i rest (dropAttention i k s)

/-- ACK ATTENTION on the record in a slot. -/
def ackAttentionAt (kinds : List Byte) (i : Slot) (s : State) : Reply × State :=
  match readAttentionKinds kinds with
  | none => refuse .range s
  | some ks =>
    let t := dropKinds i ks s
    accept [attentionByte (t.station i).attention] t

/-- ACK ATTENTION (R28). More than three kinds answer LENGTH (R199, log entry 13). -/
def ackAttentionRequest (sid : BitVec 16) (kinds : List Byte) (s : State) : Reply × State :=
  if kindsSpelled kinds then withSid sid (ackAttentionAt kinds) s else refuse .length s

/-! ### RETIRE (R172 to R175) -/

/-- Steps 1 to 4 of R172: the SID Map entry is emptied, the correction withdrawn, the programme disarmed and the
attention emptied. -/
def retireIdentity (v : Sid) (i : Slot) (s : State) : State :=
  let withdrawn := withdrawCorrection i (s.setSidEntry v none)
  clearAttention i (withdrawn.setStation i (disarmRecord (withdrawn.station i)))

/-- RETIRE by the record's binding: FREE when unbound (R173); the settling dropped with no completion and FREE when a
settling engine holds it (R107, R174); RETIRING when a burst holds it (R175). -/
def retireRecord (i : Slot) (s : State) : State :=
  match (s.station i).binding with
  | .none => becomeFree i s
  | .settling e => releaseEngine e (becomeFree i s)
  | .burst _ => s.setStation i { s.station i with state := .retiring }

/-- RETIRE (R172). -/
def retireRequest (sid : BitVec 16) (s : State) : Reply × State :=
  match readSid sid with
  | none => refuse .range s
  | some v =>
    match s.sidEntry v with
    | none => refuse .notFound s
    | some i =>
      let t := retireRecord i (retireIdentity v i s)
      accept (slotBytes i ++ [recordStateByte (t.station i).state]) t

/-! ### Commands -/

/-- The command ADMIT. -/
def execAdmitStation (body : AdmitBody) (s : State) : Host.Outcome State Fault Refusal :=
  .next (takeRequest (admitRequest body) s)

/-- The command LOOKUP. -/
def execLookup (sid : BitVec 16) (s : State) : Host.Outcome State Fault Refusal :=
  .next (takeRequest (lookupRequest sid) s)

/-- The command LOOKUP_SLOT. -/
def execLookupSlot (slot : BitVec 16) (s : State) : Host.Outcome State Fault Refusal :=
  .next (takeRequest (lookupSlotRequest slot) s)

/-- The command SCAN. -/
def execScan (slot : BitVec 16) (kind : Byte) (s : State) : Host.Outcome State Fault Refusal :=
  .next (takeRequest (scanRequest slot kind) s)

/-- The command WRITE_STATION. -/
def execWriteStation (sid : BitVec 16) (settings : List Setting) (s : State) : Host.Outcome State Fault Refusal :=
  .next (takeRequest (writeStationRequest sid settings) s)

/-- The command ACK_ATTENTION. -/
def execAckAttention (sid : BitVec 16) (kinds : List Byte) (s : State) : Host.Outcome State Fault Refusal :=
  .next (takeRequest (ackAttentionRequest sid kinds) s)

/-- The command RETIRE. -/
def execRetire (sid : BitVec 16) (s : State) : Host.Outcome State Fault Refusal :=
  .next (takeRequest (retireRequest sid) s)

end Sys2Proof.Machine
end

