-- ==== Sys2Proof/Machine/Bursts.lean ====
section
/-! DEFINITION. Chapter 4: the Burst Sequencers, from DETECT to END, truncation or abandonment, and Symbol Out. -/

namespace Sys2Proof.Machine

/-! ### Starting a burst (R64, R65) -/

/-- A burst is in progress: WAITING, LIVE or GRACE (R62). -/
def SequencerState.inProgress : SequencerState → Bool
  | .waiting => true
  | .live => true
  | .grace => true
  | .closed => false
  | .opened => false

/-- The burst items reset at the start of a burst, with the capture taken and window used set to yes (R64, R65). -/
def Burst.started (b : Burst) (c : Capture) (slot : Option Slot) : Burst :=
  { b with capture := some c, slot := slot, used := true, engine := .none, mode := .undecided, disturbed := false,
           headerSent := false, clips := 0, claim := none }

/-- A DETECT that binds the window's slot (R17, R64): the settling engine that held the record is pre-empted first
(R18), then the record is bound, the burst items reset, the capture taken and the engine requested. -/
def beginUnicast (c : Channel) (w : Window) (i : Slot) (phase : BitVec 6) (s : State) : State :=
  let unheld := match (s.station i).binding with
    | .settling e => preemptRecord e s
    | .burst _ => s
    | .none => s
  let bound := unheld.setStation i { unheld.station i with binding := .burst c }
  let capture : Capture := ⟨s.counter, phase⟩
  let ready := bound.setBurst c
    { (bound.burst c).started capture (some i) with engine := .requested, state := .waiting }
  requestEngine ⟨c, i, w.grant, capture⟩ ready

/-- A DETECT in an OPEN contention window: no binding and no engine (R65). -/
def beginContention (c : Channel) (phase : BitVec 6) (s : State) : State :=
  s.setBurst c { (s.burst c).started ⟨s.counter, phase⟩ none with state := .live }

/-- A DETECT taken while OPEN, by the window (R64, R65). -/
def detectOpen (c : Channel) (w : Window) (phase : BitVec 6) (s : State) : State :=
  match w.kind with
  | .contention => beginContention c phase s
  | .void => s
  | .unicast =>
    match w.slot with
    | none => s
    | some i => if !(s.burst c).used && stationMatches s i w.sid c then beginUnicast c w i phase s else s

/-- DETECT by the sequencer state (R64, R65, R66). -/
def detectByState (c : Channel) (phase : BitVec 6) (s : State) : State :=
  let b := s.burst c
  match b.state with
  | .closed => s
  | .grace => s
  | .waiting => s.setBurst c { b with disturbed := true }
  | .live => s.setBurst c { b with disturbed := true }
  | .opened =>
    match b.window with
    | none => s
    | some w => detectOpen c w phase s

/-- The counter stands at the channel's close point: the window is over from the TICK that brought time there, whether or
not the sequencer has taken its close (R38, log entry 3). -/
def closeReached (s : State) (c : Channel) : Bool := (s.point c).close = some s.counter

/-- DETECT (R38, R64, R65, R66): one that the TICK to the close point comes before is outside any open window. -/
def detect (c : Channel) (phase : BitVec 6) (s : State) : State :=
  if closeReached s c then s else detectByState c phase s

/-! ### Mode, header and symbols (R68 to R72) -/

/-- What PREAMBLE DONE, or an END before it, does to a unicast burst whose mode is undecided: EQUALISED with a granted
engine; otherwise the request is withdrawn and the mode is BYPASS. The header goes out (R68, R69, R73). -/
def decideMode (c : Channel) (w : Window) (s : State) : State :=
  let b := s.burst c
  match b.engine with
  | .granted _ =>
    (s.setBurst c { b with mode := .equalised, headerSent := true }).emit c
      (.header w.sid c w.start w.grant .equalised)
  | _ =>
    ((withdrawRequest c s).setBurst c
        { b with mode := .bypass, engine := .none, headerSent := true,
                 state := if b.state = .waiting then .live else b.state }).emit c
      (.header w.sid c w.start w.grant .bypass)

/-- The window of the unicast burst in progress on a channel, if there is one. -/
def unicastInProgress (b : Burst) : Option Window :=
  match b.window with
  | some w => if b.state.inProgress && w.kind = .unicast then some w else none
  | none => none

/-- The window of the contention burst in progress on a channel, if there is one. -/
def contentionInProgress (b : Burst) : Option Window :=
  match b.window with
  | some w => if b.state.inProgress && w.kind = .contention then some w else none
  | none => none

/-- PREAMBLE DONE (R68): ignored unless a unicast burst is in progress with its mode undecided. -/
def preambleDone (c : Channel) (s : State) : State :=
  match unicastInProgress (s.burst c) with
  | some w => if (s.burst c).mode = .undecided then decideMode c w s else s
  | none => s

/-- One more clipped symbol; the count does not go past 65,535 (R70). -/
def moreClips (clipped : Bool) (n : Nat) : Nat := if clipped && n < 65535 then n + 1 else n

/-- A SYMBOL of a burst in EQUALISED mode on its engine (R70). -/
def equaliseSymbol (c : Channel) (e : EngineId) (sample : Cplx) (reference : Option Cplx) (s : State) : State :=
  let taken := (s.engine e).take sample
  let b := s.burst c
  ((s.setEngine e ((s.engine e).handle sample reference)).setBurst c
      { b with clips := moreClips taken.clipped b.clips }).emit c (.symbol taken.output)

/-- SYMBOL (R70, R71): filtered and forwarded, forwarded as received, or ignored. -/
def symbol (c : Channel) (sample : Cplx) (reference : Option Cplx) (s : State) : State :=
  match unicastInProgress (s.burst c) with
  | none => s
  | some _ =>
    match (s.burst c).mode, (s.burst c).engine with
    | .equalised, .granted e => equaliseSymbol c e sample reference s
    | .bypass, _ => s.emit c (.symbol sample)
    | _, _ => s

/-- CLAIM (R72): stored for a contention burst in progress, ignored otherwise. -/
def claim (c : Channel) (token : Token) (valid : Bool) (s : State) : State :=
  match contentionInProgress (s.burst c) with
  | some _ => s.setBurst c { s.burst c with claim := some ⟨token, valid⟩ }
  | none => s

/-! ### The end of a burst (R74 to R84) -/

/-- The engine of a burst is released, if it has one (R91). -/
def releaseItem (x : EngineItem) (s : State) : State :=
  match x with
  | .granted e => releaseEngine e s
  | .requested => s
  | .none => s

/-- The trailer, if the header was sent (R69). -/
def emitTrailer (c : Channel) (b : Burst) (outcome : BurstOutcome) (s : State) : State :=
  if b.headerSent then s.emit c (.trailer outcome b.clips) else s

/-- The burst items cleared at the end of a burst; the sequencer is OPEN with the window used, or CLOSED without a
window when the window has closed (R78, R79). -/
def Burst.ended (b : Burst) : Burst :=
  { b with engine := .none, slot := none, mode := .undecided, headerSent := false, claim := none,
           state := if b.state = .grace then .closed else .opened,
           window := if b.state = .grace then none else b.window }

/-- The channel's grace expiry point is removed (R39). -/
def endGrace (c : Channel) (s : State) : State := s.setPoint c { s.point c with grace := none }

/-- The measurements of a NORMAL burst: the timing error from its capture, the delivered errors clamped (R43, R74). -/
def measure (b : Burst) (w : Window) (power frequency : Int) : Offsets :=
  ⟨match b.capture with | some x => timingError x w.start | none => 0, clampPower power, clampFrequency frequency⟩

/-- The record writes of a NORMAL unicast END: last measured, then the reload of the misses (R75). -/
def writeMeasured (i : Slot) (kind : GrantKind) (errors : Offsets) (s : State) : State :=
  reloadMisses i (s.setStation i { s.station i with lastMeasured := some ⟨kind, errors⟩ })

/-- Settling begins: the engine and the record's binding pass to it (R19, R103). -/
def startSettling (e : EngineId) (i : Slot) (errors : Offsets) (s : State) : State :=
  (s.setEngine e ((s.engine e).beginSettling s.counter errors)).setStation i
    { s.station i with binding := .settling e }

/-- What a NORMAL MAINT END hands on when an engine served the burst (R77, R102): settling, or the completion at once
and then the release. -/
def endMaintOnEngine (e : EngineId) (i : Slot) (errors : Offsets) (s : State) : State :=
  let x := s.engine e
  if x.armed && 0 < x.passes then
    if s.waiting.isEmpty then startSettling e i errors s
    else releaseEngine e (complete (liveReport x i errors false) s)
  else releaseEngine e (complete (liveReport x i errors true) s)

/-- What a NORMAL MAINT END hands on (R77). In BYPASS the completion is taken with no engine. -/
def endMaint (b : Burst) (i : Slot) (errors : Offsets) (s : State) : State :=
  match b.engine with
  | .granted e => endMaintOnEngine e i errors s
  | _ => complete (bypassReport i errors) s

/-- What any other END hands on: the engine is released with no write-back and the record unbound (R76, R77). -/
def endPlain (b : Burst) (i : Slot) (s : State) : State := unbind i (releaseItem b.engine s)

/-- The record writes and the handing on of a unicast END whose mode is decided, by outcome, grant kind and record
(R75, R76, R77, R83). -/
def endRecord (b : Burst) (w : Window) (i : Slot) (power frequency : Int) (s : State) : State :=
  if (s.station i).state = .retiring then endPlain b i s
  else if b.disturbed then
    endPlain b i (if w.grant = .maint then countMiss i s else s)
  else
    let errors := measure b w power frequency
    let written := writeMeasured i w.grant errors s
    if w.grant = .maint then endMaint b i errors written else endPlain b i written

/-- The outcome at END (R74). -/
def Burst.outcome (b : Burst) : BurstOutcome := if b.disturbed then .disturbed else .normal

/-- The END of a unicast burst with its mode decided (R74 to R78). -/
def endUnicast (c : Channel) (w : Window) (i : Slot) (power frequency : Int) (s : State) : State :=
  let b := s.burst c
  let handed := emitTrailer c b b.outcome (endRecord b w i power frequency (endGrace c s))
  handed.setBurst c (handed.burst c).ended

/-- The claim a contention END hands to the Probe List (R79). -/
def Burst.probeClaim (b : Burst) (c : Channel) (w : Window) (power frequency : Int) : Option ProbeClaim :=
  match b.disturbed, b.claim, b.capture with
  | false, some x, some cap =>
    if x.valid then some ⟨x.token, c, cap.tick, measure b w power frequency⟩ else none
  | _, _, _ => none

/-- The END of a contention burst (R79). -/
def endContention (c : Channel) (w : Window) (power frequency : Int) (s : State) : State :=
  let b := s.burst c
  let graceless := endGrace c s
  let handed := match b.probeClaim c w power frequency with
    | some x => takeClaim x graceless
    | none => graceless
  handed.setBurst c b.ended

/-- END (R73, R74, R80): ignored unless a burst is in progress; a unicast burst still undecided is decided first. -/
def burstEnd (c : Channel) (power frequency : Int) (s : State) : State :=
  match contentionInProgress (s.burst c) with
  | some w => endContention c w power frequency s
  | none =>
    match unicastInProgress (s.burst c), (s.burst c).slot with
    | some w, some i =>
      endUnicast c w i power frequency (if (s.burst c).mode = .undecided then decideMode c w s else s)
    | _, _ => s

/-- What truncation and abandonment do to a unicast burst's request, engine and record: withdrawn, released with no
settling and no write-back, unbound (R82, R84). -/
def dropUnicast (c : Channel) (b : Burst) (i : Slot) (s : State) : State :=
  unbind i (releaseItem b.engine (withdrawRequest c s))

/-- The miss of a truncated MAINT burst whose record is not RETIRING (R82). -/
def missTruncated (w : Window) (i : Slot) (s : State) : State :=
  if w.grant = .maint && (s.station i).state ≠ .retiring then countMiss i s else s

/-- A burst in GRACE is truncated (R82); without one nothing happens. -/
def truncate (c : Channel) (s : State) : State :=
  let b := s.burst c
  match b.state, b.window with
  | .grace, some w =>
    let dropped := match w.kind, b.slot with
      | .unicast, some i => dropUnicast c b i (missTruncated w i (endGrace c s))
      | _, _ => endGrace c s
    let done := emitTrailer c b .truncated dropped
    done.setBurst c (done.burst c).ended
  | _, _ => s

/-- CHANNEL OFF abandons a burst in progress and resets the context (R62, R84). The whole context is reset also on a
sequencer CLOSED with no window, where the last sentence of R84 names the capture alone: the model's choice (DESIGN
CHOICE, log entry 21). -/
def abandon (c : Channel) (s : State) : State :=
  let b := s.burst c
  let dropped := match unicastInProgress b, b.slot with
    | some _, some i => emitTrailer c b .abandoned (dropUnicast c b i s)
    | _, _ => s
  dropped.setBurst c .reset

/-! ### Commands -/

/-- The command DETECT. -/
def execDetect (c : Channel) (phase : BitVec 6) (s : State) : Host.Outcome State Fault Refusal :=
  .next (detect c phase s)

/-- The command PREAMBLE_DONE. -/
def execPreambleDone (c : Channel) (s : State) : Host.Outcome State Fault Refusal := .next (preambleDone c s)

/-- The command SYMBOL. -/
def execSymbol (c : Channel) (sample : Cplx) (reference : Option Cplx) (s : State) :
    Host.Outcome State Fault Refusal :=
  .next (symbol c sample reference s)

/-- The command CLAIM. -/
def execClaim (c : Channel) (token : Token) (valid : Bool) (s : State) : Host.Outcome State Fault Refusal :=
  .next (claim c token valid s)

/-- The command END. -/
def execBurstEnd (c : Channel) (power frequency : Int) (s : State) : Host.Outcome State Fault Refusal :=
  .next (burstEnd c power frequency s)

end Sys2Proof.Machine
end

