-- ==== Sys2Proof/Machine/Windows.lean ====
section
/-! DEFINITION. Windows and time points: the opening of a window and the SID resolution, window close, grace expiry
and the promotion of a map (R35 to R40, R53, R54, R58, R59, R63, R81, R82). -/

namespace Sys2Proof.Machine

/-! ### Window open -/

/-- The next grant of a channel, named by the next-grant position of its active map (R36, R46). -/
def nextGrant (m : ChannelMap) : Option Grant :=
  match m.active, m.position with
  | some a, some k => a.grants[k]?
  | _, _ => none

/-- The position after a grant's window has opened: the next grant's, or none if it was the last (R58). -/
def nextPosition (m : ChannelMap) : Option Nat :=
  match m.active, m.position with
  | some a, some k => if k + 1 < a.grants.length then some (k + 1) else none
  | _, _ => none

/-- The slot a DATA or MAINT window of a channel resolves to: the SID's entry, when its record is in TRAINING, LOCKED
or STALE on that channel (R14, R59). -/
def resolveSid (s : State) (c : Channel) (v : Sid) : Option Slot :=
  match s.sidEntry v with
  | none => none
  | some i => if (s.station i).state.served && (s.station i).channel = c then some i else none

/-- The window record made of a grant (R58, R59): contention for an INITIAL grant; for a DATA or MAINT grant unicast
for the slot resolved, or void. -/
def resolveGrant (s : State) (c : Channel) (g : Grant) : Window :=
  match g.kind with
  | .initial => ⟨.contention, g.kind, g.start, g.stop, 0, none⟩
  | .data | .maint =>
    match resolveSid s c g.sid with
    | some i => ⟨.unicast, g.kind, g.start, g.stop, g.sid, some i⟩
    | none => ⟨.void, g.kind, g.start, g.stop, g.sid, none⟩

/-- The sequencer takes up a window (R63): OPEN, or CLOSED for a void window; window used becomes no. -/
def Burst.takeUp (b : Burst) (w : Window) : Burst :=
  { b with window := some w, used := false, state := if w.kind = .void then .closed else .opened }

/-- The window of a grant opens (R37, R58, R63): the close point is the grant's end, the position moves on, the grant
is resolved, a burst in grace is truncated, and the sequencer takes the window up. -/
def openWindow (c : Channel) (g : Grant) (s : State) : State :=
  let w := resolveGrant s c g
  let moved := (s.setMap c { s.map c with position := nextPosition (s.map c) }).setPoint c
    { s.point c with opening := none, close := some g.stop }
  let cleared := truncate c moved
  cleared.setBurst c ((cleared.burst c).takeUp w)

/-- Conditions 1 and 2 of R36 hold for this grant: it is the channel's next grant and no window is open, that is, no
close point is held (R35, R37). -/
def waitingGrant (s : State) (c : Channel) : Option Grant :=
  if (s.point c).close.isSome then none else nextGrant (s.map c)

/-- Condition 3 of R36: start − window lead is at or before the present time. -/
def openingDue (s : State) (g : Grant) : Bool := isAtOrBefore (openingPoint s.windowLead g) s.counter

/-- The opening point of a channel, set anew (R35, R36): present while conditions 1 and 2 hold and 3 waits. -/
def setOpening (c : Channel) (s : State) : State :=
  s.setPoint c { s.point c with
    opening := match waitingGrant s c with
      | some g => if openingDue s g then none else some (openingPoint s.windowLead g)
      | none => none }

/-- The grant whose window opens now on a channel, if there is one (R36). -/
def openingNow (s : State) (c : Channel) : Option Grant :=
  match waitingGrant s c with
  | some g => if openingDue s g then some g else none
  | none => none

/-- The test of R36 on one channel, made whenever condition 1 or 2 may have come to hold: the window opens at that
moment, or its opening point is set. -/
def testOpening (c : Channel) (s : State) : State :=
  match openingNow s c with
  | some g => openWindow c g s
  | none => setOpening c s

/-! ### Close, grace and map end -/

/-- The miss of a MAINT window in which no burst began, when its record is still the window's station (R81). -/
def missUnused (c : Channel) (b : Burst) (s : State) : State :=
  match b.window with
  | none => s
  | some w =>
    match w.kind, w.slot with
    | .unicast, some i => if w.grant = .maint && !b.used && stationMatches s i w.sid c then countMiss i s else s
    | _, _ => s

/-- What window close does at the sequencer (R39, R81). `close` is the close point. -/
def sequencerClose (c : Channel) (close : Tick) (s : State) : State :=
  let b := s.burst c
  match b.state with
  | .opened => (missUnused c b s).setBurst c { b with state := .closed, window := none }
  | .waiting => (s.setBurst c { b with state := .grace }).setPoint c { s.point c with grace := some (close + 64) }
  | .live => (s.setBurst c { b with state := .grace }).setPoint c { s.point c with grace := some (close + 64) }
  | .closed => s.setBurst c { b with window := none }
  | .grace => s

/-- Time reaches the close point: it is removed, the sequencer closes the window, and the next grant is tested (R36,
R38, R81). -/
def closeWindow (c : Channel) (close : Tick) (s : State) : State :=
  testOpening c (sequencerClose c close (s.setPoint c { s.point c with close := none }))

/-- Time reaches the grace expiry point: it is removed and the burst in grace truncated (R39, R82). -/
def expireGrace (c : Channel) (s : State) : State := truncate c (endGrace c s)

/-- A READY map is promoted (R53): it becomes the active map, the pending map EMPTY, the position its first grant, the
channel RUNNING and the map end point its end; then R36 is tested. -/
def promote (c : Channel) (m : BurstMap) (s : State) : State :=
  testOpening c
    ((s.setMap c ⟨.running, some m, if m.grants.isEmpty then none else some 0, .empty⟩).setPoint c
      { s.point c with mapEnd := some m.stop })

/-- The channel starves (R54): no active map, no position, no map end point and no opening point. -/
def starve (c : Channel) (s : State) : State :=
  (s.setMap c { s.map c with state := .starved, active := none, position := none }).setPoint c
    { s.point c with mapEnd := none, opening := none }

/-- Time reaches the map end point (R54): a READY map is promoted and the promotion notice ages the channel's probes;
otherwise the channel starves. -/
def reachMapEnd (c : Channel) (s : State) : State :=
  match (s.map c).pendingMap with
  | .ready m => ageProbes c (promote c m s)
  | .building _ => starve c s
  | .empty => starve c s

/-! ### Events that wait to be taken -/

/-- The time events (table of 2.4). -/
inductive TimeEvent where
  | windowOpen (channel : Channel)
  | windowClose (channel : Channel)
  | graceExpiry (channel : Channel)
  | mapEnd (channel : Channel)
  deriving DecidableEq, Repr

/-- A time point that time has reached: it equals the counter (R30). -/
def reached (s : State) (p : Option Tick) : Bool := p = some s.counter

/-- Whether the Time Base has raised an event that is still to be taken: its time point is present and reached. -/
def TimeEvent.raised (s : State) : TimeEvent → Bool
  | .windowOpen c => reached s (s.point c).opening
  | .windowClose c => reached s (s.point c).close
  | .graceExpiry c => reached s (s.point c).grace
  | .mapEnd c => reached s (s.point c).mapEnd

/-- The opening of the next grant's window as its opening point is reached (R36, R37). -/
def openReached (c : Channel) (s : State) : State :=
  match waitingGrant s c with
  | some g => openWindow c g s
  | none => s

/-- An event is taken (R36 to R40). -/
def TimeEvent.take (s : State) : TimeEvent → State
  | .windowOpen c => openReached c s
  | .windowClose c => closeWindow c s.counter s
  | .graceExpiry c => expireGrace c s
  | .mapEnd c => reachMapEnd c s

/-- An event command: the event is taken if the Time Base has raised it; otherwise there is no such event and nothing
changes (log entry 3). -/
def takeIfRaised (x : TimeEvent) (s : State) : State := if x.raised s then x.take s else s

end Sys2Proof.Machine
end

