-- ==== Sys2Proof/Machine/Maps.lean ====
section
/-! DEFINITION. Chapter 3's requests: building maps and turning channels on and off. -/

namespace Sys2Proof.Machine

/-- The most grants a map holds (R45). -/
def grantCapacity : Nat := 48

/-- A map's span, (end − start) mod 2^32 (R45). -/
def BurstMap.span (m : BurstMap) : Nat := (m.stop - m.start).toNat

/-- A grant's offset in a map, (grant start − map start) mod 2^32 (R45). -/
def BurstMap.offset (m : BurstMap) (g : Grant) : Nat := (g.start - m.start).toNat

/-- A grant's offset plus its length. -/
def BurstMap.endOffset (m : BurstMap) (g : Grant) : Nat := m.offset g + g.length.toNat

/-- The grant lies within the map (R45, R48 check 5). -/
def BurstMap.encloses (m : BurstMap) (g : Grant) : Bool := m.endOffset g ≤ m.span

/-- The grant starts at or after the end of the map's last grant, if it has one (R45, R48 check 6). -/
def BurstMap.follows (m : BurstMap) (g : Grant) : Bool :=
  match m.grants.getLast? with
  | none => true
  | some last => m.endOffset last ≤ m.offset g

/-- Runs a request on the channel it names: RANGE outside 0..3, before any other check. -/
def withChannel (v : Byte) (act : Channel → State → Reply × State) (s : State) : Reply × State :=
  match readChannel v with
  | some c => act c s
  | none => refuse .range s

/-- The pending map of a channel is replaced. -/
def setPending (c : Channel) (p : PendingMap) (s : State) : State := s.setMap c { s.map c with pendingMap := p }

/-- MAP OPEN (R47). -/
def mapOpenRequest (channel : Byte) (start stop : Tick) (s : State) : Reply × State :=
  withChannel channel (fun c s =>
    if 1 ≤ (stop - start).toNat && (stop - start).toNat ≤ 1048576 then
      accept [] (setPending c (.building ⟨start, stop, []⟩) s)
    else refuse .range s) s

/-- The grant that MAP GRANT's fields make: checks 1 and 2 of R48, every refusal RANGE (R44). -/
def readGrant (start : Tick) (length sid : BitVec 16) (kind : Byte) : Option Grant :=
  match readGrantKind kind with
  | none => none
  | some k =>
    if h : sid.toNat < 4096 then
      if 1 ≤ length.toNat && sid.toNat ≤ 4094 && decide (k = .initial) = decide (sid.toNat = 0) then
        some ⟨start, length, ⟨sid.toNat, h⟩, k⟩
      else none
    else none

/-- MAP GRANT on a channel, from check 3 of R48 on (R48, R49). -/
def appendGrant (c : Channel) (g : Grant) (s : State) : Reply × State :=
  match (s.map c).pendingMap with
  | .empty => refuse .state s
  | .ready _ => refuse .state s
  | .building m =>
    if m.grants.length < grantCapacity then
      if m.encloses g then
        if m.follows g then
          accept [byteOfNat (m.grants.length + 1)]
            (setPending c (.building { m with grants := m.grants ++ [g] }) s)
        else refuse .order s
      else refuse .range s
    else refuse .full s

/-- MAP GRANT (R48, R49). -/
def mapGrantRequest (channel : Byte) (start : Tick) (length sid : BitVec 16) (kind : Byte) (s : State) :
    Reply × State :=
  withChannel channel (fun c s =>
    match readGrant start length sid kind with
    | none => refuse .range s
    | some g => appendGrant c g s) s

/-- The refusal that check 3 of R50 gives a start, if it gives one: OVERLAP on a RUNNING channel, LATE on another. -/
def startRefusal (s : State) (m : ChannelMap) (start : Tick) : Option Status :=
  match m.state with
  | .running =>
    match m.active with
    | some a => if isBefore start a.stop then some .overlap else none
    | none => none
  | .starved => if isBefore start s.counter then some .late else none
  | .off => if isBefore start s.counter then some .late else none

/-- The start lies 0..2^30 ticks after the present time (R50 check 4, R56). -/
def withinReach (s : State) (start : Tick) : Bool := (start - s.counter).toNat ≤ 2 ^ 30

/-- The response of MAP CLOSE: the channel state and the pending map state after the request (R51). -/
def closeReply (c : Channel) (s : State) : Reply × State :=
  accept [channelStateByte (s.map c).state, pendingStateByte (s.map c).pendingMap] s

/-- MAP CLOSE (R50, R51): the map becomes READY, and on a STARVED channel it is promoted at once. -/
def mapCloseRequest (channel : Byte) (s : State) : Reply × State :=
  withChannel channel (fun c s =>
    match (s.map c).pendingMap with
    | .empty => refuse .state s
    | .ready _ => refuse .state s
    | .building m =>
      match startRefusal s (s.map c) m.start with
      | some status => refuse status s
      | none =>
        if withinReach s m.start then
          if (s.map c).state = .starved then closeReply c (promote c m s)
          else closeReply c (setPending c (.ready m) s)
        else refuse .range s) s

/-- MAP ABANDON (R52). -/
def mapAbandonRequest (channel : Byte) (s : State) : Reply × State :=
  withChannel channel (fun c s => accept [] (setPending c .empty s)) s

/-- The response of CHANNEL ON: the channel state after the request and whether a READY map was discarded (R56). -/
def onReply (c : Channel) (discarded : Bool) (s : State) : Reply × State :=
  accept [channelStateByte (s.map c).state, byteOfBool discarded] s

/-- CHANNEL ON (R56). -/
def channelOnRequest (channel : Byte) (s : State) : Reply × State :=
  withChannel channel (fun c s =>
    if s.loadPending then refuse .busy s
    else if (s.map c).state ≠ .off then refuse .state s
    else
      let starved := s.setMap c { s.map c with state := .starved }
      match (s.map c).pendingMap with
      | .empty => onReply c false starved
      | .building _ => onReply c false starved
      | .ready m =>
        if withinReach s m.start then onReply c false (promote c m starved)
        else onReply c true (setPending c .empty starved)) s

/-- Channel reset (R35, R57, R84): the burst is abandoned, and the context, the maps and the time points of the
channel take their reset values. -/
def resetChannel (c : Channel) (s : State) : State := ((abandon c s).setMap c .reset).setPoint c .reset

/-- CHANNEL OFF (R57). -/
def channelOffRequest (channel : Byte) (s : State) : Reply × State :=
  withChannel channel (fun c s => accept [] (resetChannel c s)) s

/-! ### Commands -/

/-- The command MAP_OPEN. -/
def execMapOpen (channel : Byte) (start stop : Tick) (s : State) : Host.Outcome State Fault Refusal :=
  .next (takeRequest (mapOpenRequest channel start stop) s)

/-- The command MAP_GRANT. -/
def execMapGrant (channel : Byte) (start : Tick) (length sid : BitVec 16) (kind : Byte) (s : State) :
    Host.Outcome State Fault Refusal :=
  .next (takeRequest (mapGrantRequest channel start length sid kind) s)

/-- The command MAP_CLOSE. -/
def execMapClose (channel : Byte) (s : State) : Host.Outcome State Fault Refusal :=
  .next (takeRequest (mapCloseRequest channel) s)

/-- The command MAP_ABANDON. -/
def execMapAbandon (channel : Byte) (s : State) : Host.Outcome State Fault Refusal :=
  .next (takeRequest (mapAbandonRequest channel) s)

/-- The command CHANNEL_ON. -/
def execChannelOn (channel : Byte) (s : State) : Host.Outcome State Fault Refusal :=
  .next (takeRequest (channelOnRequest channel) s)

/-- The command CHANNEL_OFF. -/
def execChannelOff (channel : Byte) (s : State) : Host.Outcome State Fault Refusal :=
  .next (takeRequest (channelOffRequest channel) s)

end Sys2Proof.Machine
end

