-- ==== Sys2Proof/Machine/Time.lean ====
section
/-! DEFINITION. Chapter 2: TICK, SYNC, the time events as commands, and the requests on time and settings. -/

namespace Sys2Proof.Machine

/-- The raised events of one channel that are still to be taken. -/
def raisedOn (s : State) (c : Channel) : List TimeEvent :=
  [TimeEvent.windowClose c, .graceExpiry c, .mapEnd c, .windowOpen c].filter (TimeEvent.raised s)

/-- Every raised event that is still to be taken. -/
def raisedEvents (s : State) : List TimeEvent := (List.finRange 4).flatMap (raisedOn s)

/-- Takes the raised events that wait, one after another, at most `n` of them; where several wait the manual gives no
order, and each next one is a free choice (log entry 4). -/
def takeRaised : Nat → State → State
  | 0, s => s
  | n + 1, s =>
    match s.pick (raisedEvents s) with
    | (none, _) => s
    | (some x, t) => takeRaised n (x.take t)

/-- The most events that can wait: four time points on each of four channels. -/
def maxRaised : Nat := 16

/-- TICK (R29): the counter increases by one, mod 2^32. An event that time has raised and nobody has taken yet is
taken first, since time passes no point over (R30, log entry 4). -/
def tick (s : State) : State :=
  let settled := takeRaised maxRaised s
  { settled with counter := settled.counter + 1 }

/-- SYNC (R32). -/
def sync (s : State) : State :=
  if s.loadPending then { s with counter := s.pendingLoad, loadPending := false } else s

/-- Every channel is OFF (R31). -/
def allOff (s : State) : Bool := s.maps.toList.all fun m => m.state = .off

/-- TIME LOAD (R31). -/
def timeLoadRequest (value : Tick) (s : State) : Reply × State :=
  if allOff s then accept [] { s with pendingLoad := value, loadPending := true } else refuse .busy s

/-- TIME READ (R33). -/
def timeReadRequest (s : State) : Reply × State := accept (bytes32 s.counter ++ [byteOfBool s.loadPending]) s

/-- The channels whose window opens now (R36). -/
def openingChannels (s : State) : List Channel := (List.finRange 4).filter fun c => (openingNow s c).isSome

/-- Opens the windows that open now, at most `n`; where several channels' windows open at one moment the manual gives
no order, and each next one is a free choice (log entry 5). -/
def openNow : Nat → State → State
  | 0, s => s
  | n + 1, s =>
    match s.pick (openingChannels s) with
    | (none, _) => s
    | (some c, t) => openNow n (testOpening c t)

/-- The test of R36 on every channel, after the window lead has changed (R34, R36). -/
def testAll (s : State) : State := openNow 4 (setOpening 3 (setOpening 2 (setOpening 1 (setOpening 0 s))))

/-- SET PARAMETER (R34): window lead 1, probe lifetime 2 (R198). -/
def setParameterRequest (setting value : Byte) (s : State) : Reply × State :=
  if setting = 1 then accept [value] (testAll { s with windowLead := value.toNat })
  else if setting = 2 && 1 ≤ value.toNat then accept [value] { s with probeLifetime := value.toNat }
  else refuse .range s

/-! ### Commands -/

/-- The command TICK. -/
def execTick (s : State) : Host.Outcome State Fault Refusal := .next (tick s)

/-- The command SYNC. -/
def execSync (s : State) : Host.Outcome State Fault Refusal := .next (sync s)

/-- The command WINDOW_OPEN. -/
def execWindowOpen (c : Channel) (s : State) : Host.Outcome State Fault Refusal :=
  .next (takeIfRaised (.windowOpen c) s)

/-- The command WINDOW_CLOSE. -/
def execWindowClose (c : Channel) (s : State) : Host.Outcome State Fault Refusal :=
  .next (takeIfRaised (.windowClose c) s)

/-- The command GRACE_EXPIRY. -/
def execGraceExpiry (c : Channel) (s : State) : Host.Outcome State Fault Refusal :=
  .next (takeIfRaised (.graceExpiry c) s)

/-- The command MAP_END. -/
def execMapEnd (c : Channel) (s : State) : Host.Outcome State Fault Refusal :=
  .next (takeIfRaised (.mapEnd c) s)

/-- The command TIME_LOAD. -/
def execTimeLoad (value : Tick) (s : State) : Host.Outcome State Fault Refusal :=
  .next (takeRequest (timeLoadRequest value) s)

/-- The command TIME_READ. -/
def execTimeRead (s : State) : Host.Outcome State Fault Refusal := .next (takeRequest timeReadRequest s)

/-- The command SET_PARAMETER. -/
def execSetParameter (setting value : Byte) (s : State) : Host.Outcome State Fault Refusal :=
  .next (takeRequest (setParameterRequest setting value) s)

end Sys2Proof.Machine
end

