-- ==== Sys2Proof/Machine/Link.lean ====
section
/-! DEFINITION. Chapter 10: STATUS, part reset, the characters of the Host Link and the request that a frame spells. -/

namespace Sys2Proof.Machine

/-! ### STATUS and part reset -/

/-- STATUS (R189): the status block, then the probe-overflow flag is cleared (R126). -/
def statusRequest (s : State) : Reply × State := accept (statusBlock s) { s with probeOverflow := false }

/-- Part reset (R192): every block takes its reset values and the straps are sampled. The queue of commands and the
count of choices are the model's own and stand as they were. -/
def resetPart (straps : Straps) (s : State) : State :=
  { State.resetWith straps with choices := s.choices, pending := s.pending }

/-! ### Requests spelled by characters -/

/-- What a request answers and does (R184 check 5): the owning rule's effect. A command that is no request names none
(UNKNOWN); `decodeRequest` gives no such command. -/
def requestEffect : Instr → State → Reply × State
  | .status => statusRequest
  | .lookup sid => lookupRequest sid
  | .lookupSlot slot => lookupSlotRequest slot
  | .scan slot kind => scanRequest slot kind
  | .writeStation sid settings => writeStationRequest sid settings
  | .admitStation body => admitRequest body
  | .retire sid => retireRequest sid
  | .ackAttention sid kinds => ackAttentionRequest sid kinds
  | .armProgramme sid vector => armProgrammeRequest sid vector
  | .disarmProgramme sid => disarmProgrammeRequest sid
  | .takeCorrection => takeCorrectionRequest
  | .probes position => probesRequest position
  | .dismiss token => dismissRequest token
  | .mapOpen channel start stop => mapOpenRequest channel start stop
  | .mapGrant channel start length sid kind => mapGrantRequest channel start length sid kind
  | .mapClose channel => mapCloseRequest channel
  | .mapAbandon channel => mapAbandonRequest channel
  | .channelOn channel => channelOnRequest channel
  | .channelOff channel => channelOffRequest channel
  | .setDescriptor index block => setDescriptorRequest index block
  | .readDescriptor index => readDescriptorRequest index
  | .timeLoad value => timeLoadRequest value
  | .timeRead => timeReadRequest
  | .setParameter setting value => setParameterRequest setting value
  | .partReset _ => refuse .unknown
  | .powerUp _ => refuse .unknown
  | .tick => refuse .unknown
  | .sync => refuse .unknown
  | .windowOpen _ => refuse .unknown
  | .windowClose _ => refuse .unknown
  | .graceExpiry _ => refuse .unknown
  | .mapEnd _ => refuse .unknown
  | .detect _ _ => refuse .unknown
  | .preambleDone _ => refuse .unknown
  | .symbol _ _ _ => refuse .unknown
  | .claim _ _ _ => refuse .unknown
  | .burstEnd _ _ _ => refuse .unknown
  | .passCompletion _ => refuse .unknown
  | .addressCharacter _ => refuse .unknown
  | .dataCharacter _ => refuse .unknown
  | .faultyCharacter _ => refuse .unknown
  | .responseEnd => refuse .unknown

/-- Checks 2 to 5 of R184 on the frame received: the checksum, the code, the length, then the request's own checks and
effect. A length above 250 answers LENGTH once the code is known to name a request (R183, R184). -/
def frameEffect (p : PartialRequest) (checksum : Byte) (s : State) : Reply × State :=
  if p.sum ≠ checksum then refuse .checksum s
  else
    match decodeRequest p.code p.body with
    | .error .unknown => refuse .unknown s
    | .error _ => refuse .length s
    | .ok i => if p.length.toNat ≤ 250 then requestEffect i s else refuse .length s

/-! ### Characters -/

/-- The most body characters the receiver keeps (R183). -/
def bodyCapacity : Nat := 250

/-- The receiver takes one more body character: it is added to the sum and kept while fewer than 250 are held (R183). -/
def PartialRequest.more (p : PartialRequest) (v : Byte) : PartialRequest :=
  { p with body := if p.body.length < bodyCapacity then p.body ++ [v] else p.body,
           received := p.received + 1, sum := p.sum + v }

/-- The receiver's state is replaced. -/
def State.setReceiver (s : State) (r : Receiver) : State := { s with link := { s.link with receiver := r } }

/-- A data character without fault, by the receiver state (R183). The checksum character takes the request, with the
receiver back in AWAIT CODE. -/
def dataCharacter (v : Byte) (s : State) : State :=
  match s.link.receiver with
  | .deselected => s
  | .discarding => s
  | .awaitCode => s.setReceiver (.awaitLength v v)
  | .awaitLength code sum =>
    let p : PartialRequest := ⟨code, v, [], 0, sum + v⟩
    s.setReceiver (if 0 < v.toNat then .body p else .awaitChecksum p)
  | .body p =>
    let q := p.more v
    s.setReceiver (if q.received = q.length.toNat then .awaitChecksum q else .body q)
  | .awaitChecksum p => takeRequest (frameEffect p v) s.awaitCode

/-- An address character without fault: a value equal to the strapped address selects the part, any other deselects
it; a partial request is discarded (R182). -/
def addressCharacter (v : Byte) (s : State) : State :=
  s.setReceiver (if v = s.link.address.setWidth 8 then .awaitCode else .deselected)

/-- A faulty character: while the part is selected its flag is set and the receiver discards; otherwise it is ignored
(R181). -/
def faultyCharacter (f : CharacterFault) (s : State) : State :=
  if s.link.selected then { s with link := { s.link.setFault f with receiver := .discarding } } else s

/-- The last character of the response has been sent and the response line is driven no longer (R185). -/
def responseEnd (s : State) : State := { s with link := { s.link with sending := none } }

/-! ### Commands -/

/-- The command PART_RESET. -/
def execPartReset (straps : Straps) (s : State) : Host.Outcome State Fault Refusal := .next (resetPart straps s)

/-- The command POWER_UP: it acts as a RESET that is released (R192). -/
def execPowerUp (straps : Straps) (s : State) : Host.Outcome State Fault Refusal := .next (resetPart straps s)

/-- The command ADDRESS_CHARACTER. -/
def execAddressCharacter (v : Byte) (s : State) : Host.Outcome State Fault Refusal := .next (addressCharacter v s)

/-- The command DATA_CHARACTER. -/
def execDataCharacter (v : Byte) (s : State) : Host.Outcome State Fault Refusal := .next (dataCharacter v s)

/-- The command FAULTY_CHARACTER. -/
def execFaultyCharacter (f : CharacterFault) (s : State) : Host.Outcome State Fault Refusal :=
  .next (faultyCharacter f s)

/-- The command RESPONSE_END. -/
def execResponseEnd (s : State) : Host.Outcome State Fault Refusal := .next (responseEnd s)

/-- The command STATUS. -/
def execStatus (s : State) : Host.Outcome State Fault Refusal := .next (takeRequest statusRequest s)

end Sys2Proof.Machine
end

