-- ==== Sys2Proof/Machine/Dispatch.lean ====
section
/-! DEFINITION. One arm per command. -/

namespace Sys2Proof.Machine

/-- The effect of a command on everything but the queue. -/
def exec (i : Instr) (s : State) : Host.Outcome State Fault Refusal :=
  match i with
  | .partReset straps => Sys2Proof.Machine.execPartReset straps s
  | .powerUp straps => Sys2Proof.Machine.execPowerUp straps s
  | .tick => Sys2Proof.Machine.execTick s
  | .sync => Sys2Proof.Machine.execSync s
  | .windowOpen c => Sys2Proof.Machine.execWindowOpen c s
  | .windowClose c => Sys2Proof.Machine.execWindowClose c s
  | .graceExpiry c => Sys2Proof.Machine.execGraceExpiry c s
  | .mapEnd c => Sys2Proof.Machine.execMapEnd c s
  | .detect c phase => Sys2Proof.Machine.execDetect c phase s
  | .preambleDone c => Sys2Proof.Machine.execPreambleDone c s
  | .symbol c sample reference => Sys2Proof.Machine.execSymbol c sample reference s
  | .claim c token valid => Sys2Proof.Machine.execClaim c token valid s
  | .burstEnd c power frequency => Sys2Proof.Machine.execBurstEnd c power frequency s
  | .passCompletion e => Sys2Proof.Machine.execPassCompletion e s
  | .addressCharacter v => Sys2Proof.Machine.execAddressCharacter v s
  | .dataCharacter v => Sys2Proof.Machine.execDataCharacter v s
  | .faultyCharacter f => Sys2Proof.Machine.execFaultyCharacter f s
  | .responseEnd => Sys2Proof.Machine.execResponseEnd s
  | .status => Sys2Proof.Machine.execStatus s
  | .lookup sid => Sys2Proof.Machine.execLookup sid s
  | .lookupSlot slot => Sys2Proof.Machine.execLookupSlot slot s
  | .scan slot kind => Sys2Proof.Machine.execScan slot kind s
  | .writeStation sid settings => Sys2Proof.Machine.execWriteStation sid settings s
  | .admitStation body => Sys2Proof.Machine.execAdmitStation body s
  | .retire sid => Sys2Proof.Machine.execRetire sid s
  | .ackAttention sid kinds => Sys2Proof.Machine.execAckAttention sid kinds s
  | .armProgramme sid vector => Sys2Proof.Machine.execArmProgramme sid vector s
  | .disarmProgramme sid => Sys2Proof.Machine.execDisarmProgramme sid s
  | .takeCorrection => Sys2Proof.Machine.execTakeCorrection s
  | .probes position => Sys2Proof.Machine.execProbes position s
  | .dismiss token => Sys2Proof.Machine.execDismiss token s
  | .mapOpen channel start stop => Sys2Proof.Machine.execMapOpen channel start stop s
  | .mapGrant channel start length sid kind => Sys2Proof.Machine.execMapGrant channel start length sid kind s
  | .mapClose channel => Sys2Proof.Machine.execMapClose channel s
  | .mapAbandon channel => Sys2Proof.Machine.execMapAbandon channel s
  | .channelOn channel => Sys2Proof.Machine.execChannelOn channel s
  | .channelOff channel => Sys2Proof.Machine.execChannelOff channel s
  | .setDescriptor index block => Sys2Proof.Machine.execSetDescriptor index block s
  | .readDescriptor index => Sys2Proof.Machine.execReadDescriptor index s
  | .timeLoad value => Sys2Proof.Machine.execTimeLoad value s
  | .timeRead => Sys2Proof.Machine.execTimeRead s
  | .setParameter setting value => Sys2Proof.Machine.execSetParameter setting value s

end Sys2Proof.Machine
end

