-- ==== Sys2Proof/Safety.lean ====
section
/-! DEFINITION. What claims may say of a state: the ranges the manual gives each field, and the agreements it states
between the directory, the corrections, the schedule and the records. -/

namespace Sys2Proof.Machine

/-! ### Ranges (R1, R4, R6, R9, R10, R34, R70, R86, R114, R116, R128, R135, R152, R167) -/

/-- The three values lie in their ranges (R1, R4, R5). -/
structure Offsets.InRange (o : Offsets) : Prop where
  timing : -1048576 ≤ o.timing ∧ o.timing ≤ 1048575
  power : -256 ≤ o.power ∧ o.power ≤ 255
  frequency : -32768 ≤ o.frequency ∧ o.frequency ≤ 32767

/-- A set that is present has as many coefficients as its tap count and a main tap below it (R6). -/
def SetValid (set : Option CoefficientSet) : Prop := ∀ x, set = some x → x.valid = true

/-- A station record's fields lie in their ranges (R1), misses remaining by its state (R167), and its programme is armed
exactly when remaining is at least 1 (R135). -/
structure Station.InRange (r : Station) : Prop where
  estimate : r.estimate.InRange
  advertised : r.advertised.InRange
  lastMeasured : ∀ m, r.lastMeasured = some m → m.errors.InRange
  coefficients : SetValid r.coefficients
  missReload : 1 ≤ r.missReload ∧ r.missReload ≤ 255
  missesRemaining : r.missesRemaining ≤ 255
  counting : r.state = .training ∨ r.state = .locked → 1 ≤ r.missesRemaining
  spent : r.state = .stale → r.missesRemaining = 0
  remaining : r.remaining ≤ 255
  armed : r.armed = true ↔ 1 ≤ r.remaining

/-- A descriptor's fields lie in their ranges, the coarse shift no greater than the fine shift (R128). -/
structure Descriptor.InRange (d : Descriptor) : Prop where
  count : 1 ≤ d.count ∧ d.count ≤ 255
  timingThreshold : d.timingThreshold ≤ 4095
  powerThreshold : d.powerThreshold ≤ 63
  frequencyThreshold : d.frequencyThreshold ≤ 4095
  passes : d.passes ≤ 15
  shifts : 2 ≤ d.coarseShift ∧ d.coarseShift ≤ d.fineShift ∧ d.fineShift ≤ 12

/-- An engine's fields lie in their ranges (R86). -/
structure Engine.InRange (e : Engine) : Prop where
  working : SetValid e.working
  checkpoint : SetValid e.checkpoint
  errors : ∀ o, e.errors = some o → o.InRange
  shift : ∀ n, e.shift = some n → 2 ≤ n ∧ n ≤ 12
  passes : e.passes ≤ 15
  passesDone : e.passesDone ≤ 15
  training : e.training.length ≤ 64

/-- A correction entry's fields lie in their ranges (R152): the adjusts in the full spans of the differences, and a verdict
that is never NONE. -/
structure Correction.InRange (e : Correction) : Prop where
  timing : -2097151 ≤ e.adjust.timing ∧ e.adjust.timing ≤ 2097151
  power : -511 ≤ e.adjust.power ∧ e.adjust.power ≤ 511
  frequency : -65535 ≤ e.adjust.frequency ∧ e.adjust.frequency ≤ 65535
  verdict : e.verdict ≠ .none
  coefficients : SetValid e.coefficients

/-- A probe entry's fields lie in their ranges (R116). -/
structure Probe.InRange (p : Probe) : Prop where
  errors : p.errors.InRange
  sightings : 1 ≤ p.sightings ∧ p.sightings ≤ 255
  age : p.age ≤ 255

/-- At most 16 probe entries, no two with the same token (R114). -/
structure ProbesAgree (probes : List Probe) : Prop where
  entries : ∀ p ∈ probes, p.InRange
  count : probes.length ≤ 16
  distinct : (probes.map Probe.token).Nodup

/-- The records, descriptors, engines, clip counts, correction entries, probe entries and the two settings lie in their
ranges. The attention counts stand with the holders below, the lists of the Correction Unit with the corrections. -/
structure State.InRange (s : State) : Prop where
  stations : ∀ i, (s.station i).InRange
  descriptors : ∀ i, (s.descriptor i).InRange
  engines : ∀ e, (s.engine e).InRange
  clips : ∀ c, (s.burst c).clips ≤ 65535
  queue : ∀ e ∈ s.queue, e.InRange
  probes : ProbesAgree s.probes
  windowLead : s.windowLead ≤ 255
  probeLifetime : 1 ≤ s.probeLifetime ∧ s.probeLifetime ≤ 255

/-! ### The directory and the corrections (R2, R11, R13, R14, R150) -/

/-- The SID Map and the records agree: an entry names a slot exactly when that slot's record is in TRAINING, LOCKED or
STALE and carries the SID, which is neither 0 nor 4,095 (R2, R3, R13, R14). -/
structure State.DirectoryAgrees (s : State) : Prop where
  named : ∀ v i, s.sidEntry v = some i ↔ ((s.station i).state.served = true ∧ (s.station i).sid = v)
  sids : ∀ i, (s.station i).state.served = true → (s.station i).sid ≠ 0 ∧ (s.station i).sid ≠ 4095

/-- The lists of the Correction Unit and the records' correction states agree (R11, R150), a set re-correct flag stands
on a QUEUED record only, and a FREE or RETIRING record has a disarmed programme (R2, R172). -/
structure State.CorrectionsAgree (s : State) : Prop where
  queued : ∀ i, (s.station i).correction = .queued ↔ i ∈ s.queue.map Correction.slot
  held : ∀ i, (s.station i).correction = .held ↔ i ∈ s.held
  queueDistinct : (s.queue.map Correction.slot).Nodup
  heldDistinct : s.held.Nodup
  queueLength : s.queue.length ≤ 32
  full : s.held ≠ [] → s.queue.length = 32
  sids : ∀ e ∈ s.queue, e.sid = (s.station e.slot).sid
  flag : ∀ i, (s.station i).reCorrect = true → (s.station i).correction = .queued
  unserved : ∀ i, (s.station i).state.served = false →
    (s.station i).correction = .none ∧ (s.station i).armed = false

/-- The directory and the corrections agree with the records. -/
structure State.RecordsAgree (s : State) : Prop where
  directory : s.DirectoryAgrees
  corrections : s.CorrectionsAgree

/-! ### The schedule (R35, R36, R44, R45, R46, R54) -/

/-- A grant's length is at least 1, and its SID is 0 for INITIAL and 1..4,094 for DATA and MAINT (R44). -/
structure Grant.Valid (g : Grant) : Prop where
  length : 1 ≤ g.length.toNat
  initial : g.kind = .initial → g.sid = 0
  named : g.kind ≠ .initial → g.sid ≠ 0 ∧ g.sid ≠ 4095

/-- A map's span is 1..1,048,576, it has at most 48 grants, each within the map, and each next one starts at or after
the end of those before it (R45). -/
structure BurstMap.Valid (m : BurstMap) : Prop where
  span : 1 ≤ m.span ∧ m.span ≤ 1048576
  count : m.grants.length ≤ 48
  grants : ∀ g ∈ m.grants, g.Valid
  inside : ∀ g ∈ m.grants, m.endOffset g ≤ m.span
  ordered : m.grants.Pairwise fun a b => m.endOffset a ≤ m.offset b

/-- The map a channel is building or holds READY. -/
def PendingMap.map? : PendingMap → Option BurstMap
  | .empty => none
  | .building m => some m
  | .ready m => some m

/-- One channel's maps, state and time points agree: an active map exactly while RUNNING, its end the map end point,
the next-grant position inside it, every map valid, and an opening point that waits is the one of the next grant, with
no window open (R35, R36, R40, R45, R46, R54). -/
structure ChannelAgrees (lead : Nat) (m : ChannelMap) (p : TimePoints) : Prop where
  running : m.state = .running ↔ m.active.isSome = true
  mapEnd : p.mapEnd = m.active.map BurstMap.stop
  position : ∀ k, m.position = some k → ∃ a, m.active = some a ∧ k < a.grants.length
  active : ∀ a, m.active = some a → a.Valid
  pendingMap : ∀ a, m.pendingMap.map? = some a → a.Valid
  opening : ∀ t, p.opening = some t → p.close = none ∧ ∃ g, nextGrant m = some g ∧ t = openingPoint lead g

/-- The schedule of every channel agrees. -/
def State.ScheduleAgrees (s : State) : Prop := ∀ c, ChannelAgrees s.windowLead (s.map c) (s.point c)

/-! ### The holders (R12, R15, R16, R17, R35, R39, R62, R68, R87, R90, R103) -/

/-- A burst context agrees with itself and with its channel's close and grace points (R35, R39, R62, R68): CLOSED and OPEN
have no slot and no engine; a burst in progress has its capture and its window, a unicast one the window's slot and an
engine item that agrees with its mode, a contention one neither slot nor engine. -/
structure BurstAgrees (b : Burst) (p : TimePoints) : Prop where
  idle : b.state.inProgress = false → b.slot = none ∧ b.engine = .none
  busy : b.state.inProgress = true → b.capture.isSome = true ∧ ∃ w, b.window = some w ∧
    ((w.kind = .unicast ∧ w.slot = b.slot ∧ b.slot.isSome = true ∧ (b.mode = .bypass ↔ b.engine = .none) ∧
        (b.mode = .equalised → ∃ e, b.engine = .granted e)) ∨
      (w.kind = .contention ∧ b.slot = none ∧ b.engine = .none))
  waiting : b.state = .waiting → b.engine = .requested
  live : b.state = .live → b.engine ≠ .requested
  windowOpen : p.close.isSome = true ↔ (b.state = .opened ∨ b.state = .waiting ∨ b.state = .live) ∨
    (b.state = .closed ∧ b.window.isSome = true)
  inGrace : p.grace.isSome = true ↔ b.state = .grace

/-- An engine context agrees with its state (R87, R93, R103): an IDLE engine keeps nothing, a LIVE one has a channel and
what it loaded, a SETTLING one has no channel and all that a completion reports. -/
structure EngineAgrees (e : Engine) : Prop where
  idle : e.state = .idle → e = Engine.reset
  live : e.state = .live → e.channel.isSome = true ∧ e.slot.isSome = true ∧ e.working.isSome = true
  settling : e.state = .settling → e.channel = none ∧ e.slot.isSome = true ∧ e.working.isSome = true ∧
    e.checkpoint.isSome = true ∧ e.errors.isSome = true ∧ e.settlingStart.isSome = true

/-- Each attention count is the number of records that hold its kind (R12). -/
def State.Counted (s : State) : Prop :=
  ∀ k, s.counts.get k = (List.finRange 1024).countP fun i => (s.station i).attention.has k

/-- The records' holders, the burst contexts, the engines and the waiting order agree. A record is held by channel n burst
exactly when it is the bound slot of the burst in progress there, and by engine m settling exactly when that engine
settles for it (R16, R62, R87). A burst names an engine exactly when that engine is LIVE for its channel, and then both
have the same slot and grant kind (R62, R87, R93). A burst's engine item is requested exactly when its channel's one
request waits, with its slot and capture, and then all three engines are LIVE (R62, R90). A FREE record holds its part
reset values, a RETIRING one is held by a burst, and one held by channel n burst carries channel n (R15, R16, R17). -/
structure State.HoldersAgree (s : State) : Prop where
  bursts : ∀ c, BurstAgrees (s.burst c) (s.point c)
  engines : ∀ e, EngineAgrees (s.engine e)
  heldByBurst : ∀ i c, (s.station i).binding = .burst c ↔ (s.burst c).slot = some i
  heldBySettling : ∀ i e, (s.station i).binding = .settling e ↔
    ((s.engine e).state = .settling ∧ (s.engine e).slot = some i)
  granted : ∀ c e, (s.burst c).engine = .granted e ↔ ((s.engine e).state = .live ∧ (s.engine e).channel = some c)
  service : ∀ c e, (s.burst c).engine = .granted e → (s.engine e).slot = (s.burst c).slot ∧
    (s.engine e).kind = (s.burst c).window.map Window.grant
  requested : ∀ c, (s.burst c).engine = .requested ↔ c ∈ s.waiting.map EngineRequest.channel
  requests : ∀ q ∈ s.waiting, (s.burst q.channel).slot = some q.slot ∧
    (s.burst q.channel).capture = some q.arrival ∧ (s.burst q.channel).window.map Window.grant = some q.kind
  oneEach : (s.waiting.map EngineRequest.channel).Nodup
  allLive : s.waiting ≠ [] → ∀ e, (s.engine e).state = .live
  free : ∀ i, (s.station i).state = .free → s.station i = Station.reset
  retiring : ∀ i, (s.station i).state = .retiring → ∃ c, (s.station i).binding = .burst c
  channel : ∀ i c, (s.station i).binding = .burst c → (s.station i).channel = c
  counts : s.Counted

/-! ### What a request leaves on the Host Link (R183, R185, R186, R195) -/

/-- The part in the state `u` that a taken request leaves, its receiver in AWAIT CODE and its response begun: status,
fault flags as they stood, length, body and checksum. The three flags are clear. -/
def State.answered (u : State) (status : Status) (body : List Byte) : State :=
  { u with link := { u.link with
      receiver := .awaitCode, framing := false, parity := false, overrun := false,
      sending := some (responseFrame u.link.flagByte ⟨status, body⟩) } }

end Sys2Proof.Machine
end

