-- ==== Sys2Proof/Certificates/Slice0/Obligations.lean ====
section
/-! DEFINITION. The statements for the provers. Each docstring names the rules a statement formalises and, where it
rests on a choice of the model, the log entry. -/

open Sys2Proof Sys2Proof.Machine

/-! ### Words the statements share -/

/-- Tick `a` is before tick `b`, or at or before it (R30). -/
abbrev Claims.before (a b : Tick) : Prop := 1 ≤ (b - a).toNat ∧ (b - a).toNat < 2 ^ 31
abbrev Claims.atOrBefore (a b : Tick) : Prop := (b - a).toNat < 2 ^ 31

/-- A value forced into the range `lo..hi` (00_scope.md 5.5; R1, R4). -/
def Claims.forced (lo hi x : Int) : Int := max lo (min hi x)
def Claims.forcedTiming (x : Int) : Int := Claims.forced (-1048576) 1048575 x
def Claims.forcedPower (x : Int) : Int := Claims.forced (-256) 255 x
def Claims.forcedFrequency (x : Int) : Int := Claims.forced (-32768) 32767 x

/-- A value in 2 or 3 characters, most significant first; a negative one as its value mod 2^16 or 2^24 (R196). -/
def Claims.two (x : Int) : List Byte := [BitVec.ofInt 8 (x / 256), BitVec.ofInt 8 x]
def Claims.three (x : Int) : List Byte := [BitVec.ofInt 8 (x / 65536), BitVec.ofInt 8 (x / 256), BitVec.ofInt 8 x]

/-- The attention counts without the kinds a record held (R12). -/
def Claims.countsWithout (n : AttentionCounts) (a : Attention) : AttentionCounts :=
  ⟨n.staleNew - (if a.staleNew then 1 else 0), n.programmeDone - (if a.programmeDone then 1 else 0),
    n.saturated - (if a.saturated then 1 else 0)⟩

/-- A record without holder; a RETIRING one becomes FREE with its part reset values, the counts falling by what its
attention held (R12, R15, R20). -/
def Claims.unbound (i : Slot) (s : State) : State :=
  if (s.station i).state = .retiring then
    State.setStation { s with counts := Claims.countsWithout s.counts (s.station i).attention } i Station.reset
  else s.setStation i { s.station i with binding := .none }

/-- The context an engine loads at its grant from the record and the descriptor at the record's vector, the set of a
record without one being 8 taps, main tap 3, identity (R6, R8, R93, R94). -/
def Claims.loaded (c : Channel) (i : Slot) (kind : GrantKind) (s : State) : Engine where
  state := .live
  channel := some c
  slot := some i
  kind := some kind
  working := some ((s.station i).coefficients.getD
    ⟨.t8, 3, [⟨0, 0⟩, ⟨0, 0⟩, ⟨0, 0⟩, ⟨0x7FFF, 0⟩, ⟨0, 0⟩, ⟨0, 0⟩, ⟨0, 0⟩, ⟨0, 0⟩]⟩)
  generation := (s.station i).generation
  armed := kind = .maint ∧ (s.station i).armed = true
  shift := if kind = .maint ∧ (s.station i).armed = true then
      some (match (s.station i).stepClass with
        | .coarse => (s.descriptor (s.station i).vector).coarseShift
        | .fine => (s.descriptor (s.station i).vector).fineShift)
    else none
  passes := if kind = .maint ∧ (s.station i).armed = true then (s.descriptor (s.station i).vector).passes else 0
  delayLine := Vector.replicate 32 ⟨0, 0⟩
  writePos := 0
  training := []
  saturated := false
  errors := none
  settlingStart := none
  passesDone := 0
  checkpoint := none
  checkpointMark := false

/-- An engine is released: with no request waiting it becomes IDLE; otherwise the first request leaves the waiting order,
the engine is loaded for it, and the grant reaches that channel's sequencer (R67, R91, R93). -/
def Claims.released (e : EngineId) (s : State) : State :=
  match s.waiting with
  | [] => s.setEngine e Engine.reset
  | q :: rest =>
    (State.setEngine { s with waiting := rest } e (Claims.loaded q.channel q.slot q.kind s)).setBurst q.channel
      { s.burst q.channel with
        engine := .granted e,
        state := if (s.burst q.channel).state = .waiting then .live else (s.burst q.channel).state }

/-- The engine that a burst's engine item names, if it names one, is released. -/
def Claims.itemReleased (x : EngineItem) (s : State) : State :=
  match x with
  | .granted e => Claims.released e s
  | .requested => s
  | .none => s

/-- A unicast burst that is truncated or abandoned gives its engine and its record up: a request is withdrawn, the
engine released, and the record of slot `i` unbound (R82, R84). -/
def Claims.givenUp (c : Channel) (i : Slot) (s : State) : State :=
  Claims.unbound i (Claims.itemReleased (s.burst c).engine
    { s with waiting := s.waiting.filter fun q => q.channel ≠ c })

/-- The items a burst's end leaves: OPEN with its window, or CLOSED without one when the window has closed (R78, R79). -/
def Claims.endedBurst (b : Burst) : Burst :=
  { b with slot := none, engine := .none, mode := .undecided, headerSent := false, claim := none,
           state := if b.state = .grace then .closed else .opened,
           window := if b.state = .grace then none else b.window }

/-- The trailer of the burst on a channel, where its header was sent (R69). -/
def Claims.trailer (c : Channel) (outcome : BurstOutcome) (s : State) : State :=
  if (s.burst c).headerSent then s.emit c (.trailer outcome (s.burst c).clips) else s

/-- A burst ends: the trailer goes out where the header was sent, and the burst items are cleared (R69, R78). -/
def Claims.ends (c : Channel) (outcome : BurstOutcome) (s : State) : State :=
  (Claims.trailer c outcome s).setBurst c (Claims.endedBurst (s.burst c))

/-- The burst in grace on a channel is truncated: the grace expiry point goes; a MAINT burst costs its record a miss
unless that is RETIRING; a unicast burst gives its engine and record up; the burst ends TRUNCATED (R39, R82, R83). -/
def Claims.truncated (c : Channel) (w : Window) (s : State) : State :=
  let u := s.setPoint c { s.point c with grace := none }
  Claims.ends c .truncated
    (match w.kind, (s.burst c).slot with
      | .unicast, some i =>
        Claims.givenUp c i (if w.grant = .maint ∧ (s.station i).state ≠ .retiring then countMiss i u else u)
      | _, _ => u)

/-- The grant that the next-grant position of an active map names, and the position after it (R46, R58). -/
def Claims.nextGrant (m : ChannelMap) : Option Grant :=
  match m.active, m.position with
  | some a, some k => a.grants[k]?
  | _, _ => none
def Claims.nextPosition (m : ChannelMap) : Option Nat :=
  match m.active, m.position with
  | some a, some k => if k + 1 < a.grants.length then some (k + 1) else none
  | _, _ => none

/-- The window a grant opens: contention for INITIAL, unicast where the SID names a TRAINING, LOCKED or STALE record on
the channel, void otherwise (R58, R59). -/
def Claims.windowOf (s : State) (c : Channel) (g : Grant) : Window :=
  match g.kind, s.sidEntry g.sid with
  | .initial, _ => ⟨.contention, .initial, g.start, g.start + g.length.setWidth 32, 0, none⟩
  | kind, some i =>
    if ((s.station i).state = .training ∨ (s.station i).state = .locked ∨ (s.station i).state = .stale) ∧
        (s.station i).channel = c then
      ⟨.unicast, kind, g.start, g.start + g.length.setWidth 32, g.sid, some i⟩
    else ⟨.void, kind, g.start, g.start + g.length.setWidth 32, g.sid, none⟩
  | kind, none => ⟨.void, kind, g.start, g.start + g.length.setWidth 32, g.sid, none⟩

/-- The window of a grant opens: its close point is the grant's end, the position moves on, a burst of the channel still
in grace is truncated, and the sequencer takes the window up, CLOSED for a void one (R37, R58, R59, R63, R82). -/
def Claims.opens (c : Channel) (g : Grant) (s : State) : State :=
  let moved := (s.setMap c { s.map c with position := Claims.nextPosition (s.map c) }).setPoint c
    { s.point c with opening := none, close := some (g.start + g.length.setWidth 32) }
  let cleared := match (s.burst c).state, (s.burst c).window with
    | .grace, some old => Claims.truncated c old moved
    | _, _ => moved
  cleared.setBurst c { cleared.burst c with
    window := some (Claims.windowOf s c g), used := false,
    state := if (Claims.windowOf s c g).kind = .void then .closed else .opened }

/-- The test of R36 on a channel. With no window open and a next grant whose opening point lies at or before the present
time, its window opens at this moment; with one whose opening point lies ahead, that point is set; otherwise there is no
opening point (R35, R36). -/
def Claims.tested (c : Channel) (s : State) : State :=
  match (s.point c).close, Claims.nextGrant (s.map c) with
  | none, some g =>
    if Claims.atOrBefore (g.start - BitVec.ofNat 32 s.windowLead) s.counter then Claims.opens c g s
    else s.setPoint c { s.point c with opening := some (g.start - BitVec.ofNat 32 s.windowLead) }
  | _, _ => s.setPoint c { s.point c with opening := none }

/-- A READY map is promoted: it becomes the active map, its end the map end point and its first grant the next one, the
channel RUNNING with no pending map; then R36 is tested (R36, R53). -/
def Claims.promoted (c : Channel) (m : BurstMap) (s : State) : State :=
  Claims.tested c ((s.setMap c { state := .running, active := some m,
                                 position := if m.grants = [] then none else some 0, pendingMap := .empty }).setPoint c
    { s.point c with mapEnd := some m.stop })

/-! ### The queue of commands and part reset -/

/-- A step takes the command at the front of the queue and runs it on the rest; on an empty queue the block idles (the
queue is the model's choice, log entry 1). -/
def Obligations.StepTakesFrontCommand : Prop :=
  (∀ (c : Instr) (rest : List Instr) (s : State), s.pending = c :: rest → step s = exec c { s with pending := rest }) ∧
  (∀ s : State, s.pending = [] → step s = .next s)

/-- Every command completes in every state, and leaves the queue of commands alone (log entry 1). -/
def Obligations.CommandsAlwaysComplete : Prop :=
  ∀ (c : Instr) (s : State), ∃ t, exec c s = .next t ∧ t.pending = s.pending

/-- PART_RESET and POWER_UP put every block at its reset values, with the straps as sampled (R1, R29, R31, R34, R35,
R46, R62, R86, R114, R128, R150, R187, R192). -/
def Obligations.PartResetGivesResetValues : Prop :=
  ∀ (straps : Straps) (c : Instr) (s : State), c = .partReset straps ∨ c = .powerUp straps →
    ∃ t, exec c s = .next t ∧
      (∀ i, t.station i =
        { state := .free, sid := 0, channel := 0, estimate := ⟨0, 0, 0⟩, advertised := ⟨0, 0, 0⟩,
          lastMeasured := none, coefficients := none, generation := 0, stepClass := .coarse, missReload := 1,
          missesRemaining := 0, armed := false, vector := 0, remaining := 0, lastVerdict := .none,
          exportWanted := false, correction := .none, reCorrect := false, attention := ⟨false, false, false⟩,
          binding := .none }) ∧
      (∀ v, t.sidEntry v = none) ∧ t.counts = ⟨0, 0, 0⟩ ∧
      t.counter = 0 ∧ t.loadPending = false ∧ t.pendingLoad = 0 ∧ t.windowLead = 16 ∧ t.probeLifetime = 16 ∧
      (∀ ch, t.point ch = ⟨none, none, none, none⟩ ∧ t.map ch = ⟨.off, none, none, .empty⟩ ∧ t.emitted ch = [] ∧
        t.burst ch =
          { state := .closed, window := none, used := false, capture := none, slot := none, engine := .none,
            mode := .undecided, disturbed := false, headerSent := false, clips := 0, claim := none }) ∧
      (∀ e, t.engine e =
        { state := .idle, channel := none, slot := none, kind := none, working := none, generation := 0,
          armed := false, shift := none, passes := 0, delayLine := Vector.replicate 32 ⟨0, 0⟩, writePos := 0,
          training := [], saturated := false, errors := none, settlingStart := none, passesDone := 0,
          checkpoint := none, checkpointMark := false }) ∧
      t.waiting = [] ∧
      (∀ d, t.descriptor d =
        { mode := .once, count := 1, noticeOnRepeat := false, chain := false, mask := ⟨false, false, false, false⟩,
          timingThreshold := 0, powerThreshold := 0, frequencyThreshold := 0, passes := 0, coarseShift := 6,
          fineShift := 10, exportSet := false }) ∧
      t.queue = [] ∧ t.held = [] ∧ t.probes = [] ∧ t.probeOverflow = false ∧
      t.link = { address := straps.address, rate := straps.rate, receiver := .deselected, framing := false,
                 parity := false, overrun := false, sending := none } ∧
      t.notice = false

/-! ### Plant time and windows (chapters 2 and 3) -/

/-- TICK adds one to the counter, mod 2^32, and where no time point stands reached it changes nothing else (R29). -/
def Obligations.TickAdvancesCounter : Prop :=
  (∀ s : State, ∃ t, exec .tick s = .next t ∧ t.counter = s.counter + 1) ∧
  (∀ s : State, (∀ c, (s.point c).opening ≠ some s.counter ∧ (s.point c).close ≠ some s.counter ∧
      (s.point c).grace ≠ some s.counter ∧ (s.point c).mapEnd ≠ some s.counter) →
    exec .tick s = .next { s with counter := s.counter + 1 })

/-- TIME LOAD is taken when every channel is OFF, and refused with BUSY otherwise. SYNC takes a pending load into the
counter; without one it changes nothing. TIME READ answers the counter and whether a load is pending, and changes
nothing (R31, R32, R33). -/
def Obligations.TimeLoadPendsUntilSync : Prop :=
  (∀ s : State,
    (s.loadPending = true → exec .sync s = .next { s with counter := s.pendingLoad, loadPending := false }) ∧
    (s.loadPending = false → exec .sync s = .next s)) ∧
  (∀ (v : Tick) (s : State), s.link.sending = none →
    ((∀ c, (s.map c).state = .off) →
      exec (.timeLoad v) s = .next (State.answered { s with pendingLoad := v, loadPending := true } .ok [])) ∧
    (∀ c, (s.map c).state ≠ .off → exec (.timeLoad v) s = .next (s.answered .busy []))) ∧
  (∀ s : State, s.link.sending = none →
    exec .timeRead s = .next (s.answered .ok
      [s.counter.extractLsb' 24 8, s.counter.extractLsb' 16 8, s.counter.extractLsb' 8 8, s.counter.extractLsb' 0 8,
        if s.loadPending then 1 else 0]))

/-- SET PARAMETER writes the probe lifetime (1..255) or the window lead, and refuses anything else with RANGE. After a
new lead the test of R36 is made on every channel: every opening point that waits is set anew, which is the model's
choice (log entry 18), and every window that the new lead makes due opens at once (R34, R36). Where several open at that
moment, their order and the free choices that give it are open (log entry 5). -/
def Obligations.SetParameterWritesSetting : Prop :=
  ∀ (n v : Byte) (s : State), s.link.sending = none →
    (n = 2 → v ≠ 0 →
      exec (.setParameter n v) s = .next (State.answered { s with probeLifetime := v.toNat } .ok [v])) ∧
    (n = 1 → ∃ (order : List Channel) (x : Nat), order.Perm [0, 1, 2, 3] ∧
      exec (.setParameter n v) s = .next (State.answered
        { order.foldl (fun u c => Claims.tested c u) { s with windowLead := v.toNat } with choices := x } .ok [v])) ∧
    ((n ≠ 1 ∧ n ≠ 2) ∨ (n = 2 ∧ v = 0) → exec (.setParameter n v) s = .next (s.answered .range []))

/-- Time reaches an opening point: the window of the next grant opens, its close point is the grant's end, the position
moves on, a burst still in grace is truncated, and the sequencer takes the window up (R36, R37, R58, R59, R63, R82). -/
def Obligations.WindowOpensAtOpeningPoint : Prop :=
  ∀ (c : Channel) (s : State) (g : Grant), (s.point c).opening = some s.counter → (s.point c).close = none →
    Claims.nextGrant (s.map c) = some g → exec (.windowOpen c) s = .next (Claims.opens c g s)

/-- The window on a channel is a MAINT window in which no burst began, and the record in slot `i` is still its station:
in TRAINING, LOCKED or STALE with the window's SID on the channel (R81). -/
structure Claims.unusedMaint (c : Channel) (w : Window) (i : Slot) (s : State) : Prop where
  kind : w.kind = .unicast
  grant : w.grant = .maint
  slot : w.slot = some i
  used : (s.burst c).used = false
  served : (s.station i).state = .training ∨ (s.station i).state = .locked ∨ (s.station i).state = .stale
  sid : (s.station i).sid = w.sid
  channel : (s.station i).channel = c

/-- Time reaches the close point of a window. With a burst WAITING or LIVE the burst is in grace and the grace expiry
point stands 64 ticks on. With no burst in progress the sequencer holds no window, and the record of a MAINT window in
which no burst began has one miss, where it is still the window's station; a void or a contention window counts none.
Then R36 is tested: the next grant's window opens at once where it is due (R36, R38, R39, R81). -/
def Obligations.WindowCloseGivesGraceOrClosesWindow : Prop :=
  (∀ (c : Channel) (s : State), (s.point c).close = some s.counter →
    (s.burst c).state = .waiting ∨ (s.burst c).state = .live →
    exec (.windowClose c) s = .next (Claims.tested c
      ((s.setBurst c { s.burst c with state := .grace }).setPoint c
        { s.point c with close := none, grace := some (s.counter + 64) }))) ∧
  (∀ (c : Channel) (s : State) (w : Window), (s.point c).close = some s.counter → (s.burst c).window = some w →
    let closed (u : State) : State := (u.setBurst c { s.burst c with state := .closed, window := none }).setPoint c
      { s.point c with close := none }
    (∀ i, (s.burst c).state = .opened → Claims.unusedMaint c w i s →
      exec (.windowClose c) s = .next (Claims.tested c (closed (countMiss i s)))) ∧
    ((s.burst c).state = .closed ∨ ((s.burst c).state = .opened ∧ ∀ i, ¬ Claims.unusedMaint c w i s) →
      exec (.windowClose c) s = .next (Claims.tested c (closed s))))

/-- A miss lowers misses remaining in TRAINING and LOCKED; at 0 the record becomes STALE with STALE-NEW, whose count
rises if the record lacked it; in any other state it changes nothing (R12, R167, R168). -/
def Obligations.MissesBringStaleness : Prop :=
  ∀ (i : Slot) (s : State),
    let r := s.station i
    ((r.state = .training ∨ r.state = .locked) → 2 ≤ r.missesRemaining →
      countMiss i s = s.setStation i { r with missesRemaining := r.missesRemaining - 1 }) ∧
    ((r.state = .training ∨ r.state = .locked) → r.missesRemaining ≤ 1 →
      countMiss i s = { s.setStation i { r with missesRemaining := 0, state := .stale,
                                                attention := { r.attention with staleNew := true } } with
        counts := if r.attention.staleNew then s.counts
          else { s.counts with staleNew := s.counts.staleNew + 1 } }) ∧
    ((r.state = .stale ∨ r.state = .retiring ∨ r.state = .free) → countMiss i s = s)

/-- Time reaches the grace expiry point of a burst in grace: the burst is truncated. A contention burst only ends. A
unicast burst gives its record and its engine up, whether its engine item names an engine, waits for one or is none: a
MAINT burst's record has one miss and is unbound, a RETIRING one becomes FREE with no miss, the engine goes to the first
waiting request or becomes IDLE, with no write-back, and a request of its own is withdrawn. The trailer goes out TRUNCATED
where the header was sent, and the sequencer is CLOSED without a window (R20, R39, R69, R82, R83, R91). -/
def Obligations.GraceExpiryTruncates : Prop :=
  ∀ (c : Channel) (s : State) (w : Window), (s.point c).grace = some s.counter → (s.burst c).state = .grace →
    (s.burst c).window = some w →
    exec (.graceExpiry c) s = .next (Claims.truncated c w s) ∧
    (w.kind = .contention → exec (.graceExpiry c) s = .next
      (Claims.ends c .truncated (s.setPoint c { s.point c with grace := none })))

/-- Time reaches the map end point. Without a READY map the channel starves: no active map, no position, no map end
point, no opening point. With one, that map is promoted, its first window opening at once where it is due and no window
is open, and the channel's probe entries age, those past the probe lifetime leaving (R36, R53, R54, R121). -/
def Obligations.MapEndPromotesOrStarves : Prop :=
  (∀ (c : Channel) (s : State), (s.point c).mapEnd = some s.counter → (∀ m, (s.map c).pendingMap ≠ .ready m) →
    exec (.mapEnd c) s = .next
      ((s.setMap c { s.map c with state := .starved, active := none, position := none }).setPoint c
        { s.point c with mapEnd := none, opening := none })) ∧
  (∀ (c : Channel) (s : State) (m : BurstMap), (s.point c).mapEnd = some s.counter →
    (s.map c).pendingMap = .ready m →
    exec (.mapEnd c) s = .next
      { Claims.promoted c m s with
        probes := (s.probes.filter fun p => p.channel ≠ c ∨ p.age + 1 ≤ s.probeLifetime).map fun p =>
          if p.channel = c then { p with age := p.age + 1 } else p })

/-- A time event command changes nothing where the Time Base has not raised the event (the model's choice, log
entry 3). -/
def Obligations.TimeEventsOnlyWhenReached : Prop :=
  ∀ (c : Channel) (s : State),
    ((s.point c).opening ≠ some s.counter → exec (.windowOpen c) s = .next s) ∧
    ((s.point c).close ≠ some s.counter → exec (.windowClose c) s = .next s) ∧
    ((s.point c).grace ≠ some s.counter → exec (.graceExpiry c) s = .next s) ∧
    ((s.point c).mapEnd ≠ some s.counter → exec (.mapEnd c) s = .next s)

/-! ### Bursts (chapter 4) -/

/-- A DETECT while OPEN on a contention window starts a contention burst: the items reset, the capture taken, LIVE, with
no engine and no slot, whether or not a burst has begun in the window before. During a burst whose window is still open it
sets the disturbed mark and nothing else. It is ignored in CLOSED and in grace, in a unicast window already used or whose
record is no longer its station, and outside any open window (R38, R64, R65, R66). That a window is over while the counter
stands at its close point, also before WINDOW_CLOSE is taken, so that a DETECT is ignored there in every sequencer state
and begins or disturbs a burst only away from it, is the model's choice (log entry 3). -/
def Obligations.OtherDetectsStartContentionDisturbOrAreIgnored : Prop :=
  (∀ (c : Channel) (phase : BitVec 6) (s : State) (w : Window), (s.point c).close ≠ some s.counter →
    (s.burst c).state = .opened → (s.burst c).window = some w → w.kind = .contention →
    exec (.detect c phase) s = .next (s.setBurst c
      { state := .live, window := some w, used := true, capture := some ⟨s.counter, phase⟩, slot := none,
        engine := .none, mode := .undecided, disturbed := false, headerSent := false, clips := 0, claim := none })) ∧
  (∀ (c : Channel) (phase : BitVec 6) (s : State),
    ((s.point c).close ≠ some s.counter → (s.burst c).state = .waiting ∨ (s.burst c).state = .live →
      exec (.detect c phase) s = .next (s.setBurst c { s.burst c with disturbed := true })) ∧
    ((s.point c).close = some s.counter → exec (.detect c phase) s = .next s) ∧
    ((s.burst c).state = .closed ∨ (s.burst c).state = .grace → exec (.detect c phase) s = .next s) ∧
    (∀ w, (s.burst c).state = .opened → (s.burst c).window = some w → w.kind = .unicast →
      ((s.burst c).used = true ∨ ∃ i, w.slot = some i ∧ ((s.station i).state = .free ∨
        (s.station i).state = .retiring ∨ (s.station i).sid ≠ w.sid ∨ (s.station i).channel ≠ c)) →
      exec (.detect c phase) s = .next s))

/-- A DETECT may bind the record in slot `i` on the window `w`: time has not reached the close point, the sequencer is
OPEN on an unused unicast window of the slot, and the record is the window's station (R17, R38, R64). -/
structure Claims.bindable (c : Channel) (w : Window) (i : Slot) (s : State) : Prop where
  close : (s.point c).close ≠ some s.counter
  state : (s.burst c).state = .opened
  window : (s.burst c).window = some w
  kind : w.kind = .unicast
  slot : w.slot = some i
  used : (s.burst c).used = false
  served : (s.station i).state = .training ∨ (s.station i).state = .locked ∨ (s.station i).state = .stale
  sid : (s.station i).sid = w.sid
  channel : (s.station i).channel = c

/-- The burst items after a DETECT that binds slot `i` (R64). -/
def Claims.begun (w : Window) (i : Slot) (capture : Capture) (engine : EngineItem) (state : SequencerState) :
    Burst where
  state := state
  window := some w
  used := true
  capture := some capture
  slot := some i
  engine := engine
  mode := .undecided
  disturbed := false
  headerSent := false
  clips := 0
  claim := none

/-- A DETECT in an OPEN unicast window whose record is unbound and still the window's station binds the record, captures
and requests an engine; the lowest IDLE engine is granted, loaded from the record and the descriptor at its vector
(R17, R64, R88, R93, R94). -/
def Obligations.DetectBindsAndLoadsIdleEngine : Prop :=
  ∀ (c : Channel) (phase : BitVec 6) (s : State) (w : Window) (i : Slot) (e : EngineId), Claims.bindable c w i s →
    (s.station i).binding = .none → (s.engine e).state = .idle → (∀ d, d < e → (s.engine d).state ≠ .idle) →
    exec (.detect c phase) s = .next
      (((s.setStation i { s.station i with binding := .burst c }).setBurst c
        (Claims.begun w i ⟨s.counter, phase⟩ (.granted e) .live)).setEngine e (Claims.loaded c i w.grant s))

/-- The same DETECT with no engine IDLE and one SETTLING engine that started settling before every other: its completion
is taken with its checkpoint and "not all passes", and the engine is granted (R88, R89, R93, R94, R106, R109). -/
def Obligations.DetectPreemptsEarliestSettling : Prop :=
  ∀ (c : Channel) (phase : BitVec 6) (s : State) (w : Window) (i j : Slot) (e : EngineId) (x : Tick)
    (errors : Offsets), Claims.bindable c w i s → (s.station i).binding = .none →
    (∀ d, (s.engine d).state ≠ .idle) → (s.engine e).state = .settling → (s.engine e).settlingStart = some x →
    (∀ d, d ≠ e → (s.engine d).state = .settling →
      ∃ y, (s.engine d).settlingStart = some y ∧ (Claims.before x y ∨ (x = y ∧ e < d))) →
    (s.engine e).slot = some j → j ≠ i → (s.engine e).errors = some errors →
    exec (.detect c phase) s = .next
      (((complete ⟨j, errors, (s.engine e).checkpoint, (s.engine e).generation, false, (s.engine e).checkpointMark⟩
        (s.setStation i { s.station i with binding := .burst c })).setBurst c
        (Claims.begun w i ⟨s.counter, phase⟩ (.granted e) .live)).setEngine e (Claims.loaded c i w.grant s))

/-- The same DETECT on a record that a settling engine holds, with no request waiting: that settling's completion is
taken first with its checkpoint and "not all passes", its engine becomes IDLE, and then the record as the completion left
it is bound and the lowest IDLE engine granted (R18, R88, R91, R93, R106, R109). -/
def Obligations.DetectEndsItsRecordsSettling : Prop :=
  ∀ (c : Channel) (phase : BitVec 6) (s : State) (w : Window) (i : Slot) (e d : EngineId) (errors : Offsets),
    Claims.bindable c w i s → (s.station i).binding = .settling e → s.waiting = [] → (s.engine e).slot = some i →
    (s.engine e).errors = some errors → (d = e ∨ (s.engine d).state = .idle) →
    (∀ x, x < d → x ≠ e ∧ (s.engine x).state ≠ .idle) →
    let u := complete ⟨i, errors, (s.engine e).checkpoint, (s.engine e).generation, false, (s.engine e).checkpointMark⟩ s
    exec (.detect c phase) s = .next
      ((((u.setStation i { u.station i with binding := .burst c }).setBurst c
        (Claims.begun w i ⟨s.counter, phase⟩ (.granted d) .live)).setEngine e Engine.reset).setEngine d
          (Claims.loaded c i w.grant u))

/-- Of two requests, the one whose burst arrived earlier stands first: the earlier captured tick, then the lower fine
phase, and of two equal arrivals the lower channel (R42, R90). -/
def Claims.standsFirst (a b : EngineRequest) : Prop :=
  Claims.before a.arrival.tick b.arrival.tick ∨
  (a.arrival.tick = b.arrival.tick ∧ (a.arrival.phase.toNat < b.arrival.phase.toNat ∨
    (a.arrival.phase = b.arrival.phase ∧ a.channel.val < b.channel.val)))

/-- The same DETECT with every engine LIVE: the engine item is requested, the sequencer WAITING, and the request joins
the waiting order, behind the requests it does not stand before and ahead of the first one it does (R64, R88, R90). -/
def Obligations.DetectWaitsWhenEveryEngineIsLive : Prop :=
  ∀ (c : Channel) (phase : BitVec 6) (s : State) (w : Window) (i : Slot), Claims.bindable c w i s →
    (s.station i).binding = .none → (∀ e, (s.engine e).state = .live) →
    ∃ ahead behind, s.waiting = ahead ++ behind ∧
      (∀ q ∈ ahead, ¬ Claims.standsFirst ⟨c, i, w.grant, ⟨s.counter, phase⟩⟩ q) ∧
      (∀ q, behind.head? = some q → Claims.standsFirst ⟨c, i, w.grant, ⟨s.counter, phase⟩⟩ q) ∧
      exec (.detect c phase) s = .next
        { (s.setStation i { s.station i with binding := .burst c }).setBurst c
            (Claims.begun w i ⟨s.counter, phase⟩ .requested .waiting) with
          waiting := ahead ++ ⟨c, i, w.grant, ⟨s.counter, phase⟩⟩ :: behind }

/-- PREAMBLE DONE decides the mode of a unicast burst in progress and emits the header: EQUALISED with a granted engine,
otherwise the request is withdrawn and the mode is BYPASS. It is ignored for a decided burst, a contention burst, and
outside a burst. The END of a unicast burst still undecided does what PREAMBLE DONE does and is then handled (R68, R69,
R73). -/
def Obligations.PreambleDoneDecidesMode : Prop :=
  (∀ (c : Channel) (power frequency : Int) (s t : State) (w : Window) (i : Slot), (s.burst c).window = some w →
    w.kind = .unicast → ((s.burst c).state = .waiting ∨ (s.burst c).state = .live ∨ (s.burst c).state = .grace) →
    (s.burst c).slot = some i → (s.burst c).mode = .undecided → exec (.preambleDone c) s = .next t →
    exec (.burstEnd c power frequency) s = exec (.burstEnd c power frequency) t) ∧
  ∀ (c : Channel) (s : State),
    (∀ w e, (s.burst c).window = some w → w.kind = .unicast →
      ((s.burst c).state = .live ∨ (s.burst c).state = .grace) → (s.burst c).mode = .undecided →
      (s.burst c).engine = .granted e →
      exec (.preambleDone c) s = .next ((s.setBurst c { s.burst c with mode := .equalised, headerSent := true }).emit c
        (.header w.sid c w.start w.grant .equalised))) ∧
    (∀ w, (s.burst c).window = some w → w.kind = .unicast →
      ((s.burst c).state = .waiting ∨ (s.burst c).state = .grace) → (s.burst c).mode = .undecided →
      (s.burst c).engine = .requested →
      exec (.preambleDone c) s = .next
        ((State.setBurst { s with waiting := s.waiting.filter fun q => q.channel ≠ c } c
          { s.burst c with mode := .bypass, headerSent := true, engine := .none,
                           state := if (s.burst c).state = .waiting then .live else .grace }).emit c
          (.header w.sid c w.start w.grant .bypass))) ∧
    ((s.burst c).mode ≠ .undecided ∨ (s.burst c).state = .closed ∨ (s.burst c).state = .opened ∨
        (∃ w, (s.burst c).window = some w ∧ w.kind = .contention) →
      exec (.preambleDone c) s = .next s)

/-- A SYMBOL of a burst in BYPASS is emitted as received, its reference dropped; one of an undecided burst, of a
contention burst, or outside a burst is ignored (R71). -/
def Obligations.SymbolInBypassPassesUnchanged : Prop :=
  ∀ (c : Channel) (x : Cplx) (reference : Option Cplx) (s : State),
    (∀ w, (s.burst c).window = some w → w.kind = .unicast →
      ((s.burst c).state = .live ∨ (s.burst c).state = .grace) → (s.burst c).mode = .bypass →
      exec (.symbol c x reference) s = .next (s.emit c (.symbol x))) ∧
    ((s.burst c).mode = .undecided ∨ (s.burst c).state = .closed ∨ (s.burst c).state = .opened ∨
        (∃ w, (s.burst c).window = some w ∧ w.kind = .contention) →
      exec (.symbol c x reference) s = .next s)

/-- The value `k` places back once `x` has entered the delay line: `x` itself, then the values before it (R96). -/
def Claims.backValue (e : Engine) (x : Cplx) (k : Nat) : Cplx :=
  if k = 0 then x else e.delayLine[(e.writePos.val + 32 - k) % 32]'(Nat.mod_lt _ (by decide))

/-- One part of the exact filter sum, in units of 1/2^30: over every tap, coefficient times value (R97). -/
def Claims.exactSum (e : Engine) (x : Cplx) (taps : List Cplx) (part : Cplx → Cplx → Int) : Int :=
  ((List.range taps.length).map fun k => part (taps.getD k ⟨0, 0⟩) (Claims.backValue e x k)).sum

/-- The real and the imaginary part of a product of two complex values (R97). -/
def Claims.productRe (a b : Cplx) : Int := a.re.toInt * b.re.toInt - a.im.toInt * b.im.toInt
def Claims.productIm (a b : Cplx) : Int := a.re.toInt * b.im.toInt + a.im.toInt * b.re.toInt

/-- A part in units of 1/2^30 rounded to 1/2^15, halves to the larger (R97). -/
def Claims.rounded (x : Int) : Int := (x + 2 ^ 14) / 2 ^ 15

/-- A part forced into −1..unit value (R98, R100). -/
def Claims.limited (x : Int) : Int := Claims.forced (-32768) 32767 x

/-- The two parts of the filter output for the sample `x`, rounded and not yet clipped, and the clipped output (R97,
R98). -/
def Claims.outRe (e : Engine) (x : Cplx) (taps : List Cplx) : Int :=
  Claims.rounded (Claims.exactSum e x taps Claims.productRe)
def Claims.outIm (e : Engine) (x : Cplx) (taps : List Cplx) : Int :=
  Claims.rounded (Claims.exactSum e x taps Claims.productIm)
def Claims.output (e : Engine) (x : Cplx) (taps : List Cplx) : Cplx :=
  ⟨BitVec.ofInt 16 (Claims.limited (Claims.outRe e x taps)), BitVec.ofInt 16 (Claims.limited (Claims.outIm e x taps))⟩

/-- The clip count after a symbol: one more where a part of its output was clipped, up to 65,535 (R70, R98). -/
def Claims.clipsAfter (e : Engine) (x : Cplx) (taps : List Cplx) (clips : Nat) : Nat :=
  if (Claims.limited (Claims.outRe e x taps) ≠ Claims.outRe e x taps ∨
      Claims.limited (Claims.outIm e x taps) ≠ Claims.outIm e x taps) ∧ clips < 65535 then clips + 1 else clips

/-- A SYMBOL of a burst in EQUALISED mode without adaptation: the sample enters the delay line, the filter sum is formed
exactly, rounded and clipped, forwarded on Symbol Out, and a clipped symbol counted once, up to 65,535 (R70, R96, R97,
R98). -/
def Obligations.SymbolIsFilteredAndClipped : Prop :=
  ∀ (c : Channel) (x : Cplx) (reference : Option Cplx) (s : State) (w : Window) (e : EngineId) (f : CoefficientSet),
    (s.burst c).window = some w → w.kind = .unicast → ((s.burst c).state = .live ∨ (s.burst c).state = .grace) →
    (s.burst c).mode = .equalised → (s.burst c).engine = .granted e → (s.engine e).working = some f →
    f.taps.length ≤ 32 → (reference = none ∨ (s.engine e).armed = false) →
    exec (.symbol c x reference) s = .next
      (((s.setEngine e { s.engine e with
          delayLine := (s.engine e).delayLine.set (s.engine e).writePos x,
          writePos := (s.engine e).writePos + 1 }).setBurst c
        { s.burst c with clips := Claims.clipsAfter (s.engine e) x f.taps (s.burst c).clips }).emit c
        (.symbol (Claims.output (s.engine e) x f.taps)))

/-- The change of one part of one coefficient: the product's part over 2^shift, rounded to 15 fraction bits, halves to
the larger (R100). -/
def Claims.change (shift : Nat) (x : Int) : Int := (x + 2 ^ (14 + shift)) / 2 ^ (15 + shift)

/-- The two parts of coefficient `k` moved by the error, reference minus clipped output, times the conjugate of its
value, not yet clamped (R99, R100). -/
def Claims.movedRe (e : Engine) (x r : Cplx) (taps : List Cplx) (shift k : Nat) : Int :=
  (taps.getD k ⟨0, 0⟩).re.toInt + Claims.change shift
    ((r.re.toInt - Claims.limited (Claims.outRe e x taps)) * (Claims.backValue e x k).re.toInt +
      (r.im.toInt - Claims.limited (Claims.outIm e x taps)) * (Claims.backValue e x k).im.toInt)
def Claims.movedIm (e : Engine) (x r : Cplx) (taps : List Cplx) (shift k : Nat) : Int :=
  (taps.getD k ⟨0, 0⟩).im.toInt + Claims.change shift
    ((r.im.toInt - Claims.limited (Claims.outIm e x taps)) * (Claims.backValue e x k).re.toInt -
      (r.re.toInt - Claims.limited (Claims.outRe e x taps)) * (Claims.backValue e x k).im.toInt)

/-- An engine with the working set `f` and this shift after one training symbol: every coefficient moved and clamped,
the mark set where a clamp changed something, the sample in the delay line (R96 to R100). -/
def Claims.trained (e : Engine) (f : CoefficientSet) (shift : Nat) (x r : Cplx) : Engine :=
  { e with
    working := some { f with taps := (List.range f.taps.length).map fun k =>
      ⟨BitVec.ofInt 16 (Claims.limited (Claims.movedRe e x r f.taps shift k)),
        BitVec.ofInt 16 (Claims.limited (Claims.movedIm e x r f.taps shift k))⟩ }
    saturated := e.saturated || decide (∃ k < f.taps.length,
      Claims.limited (Claims.movedRe e x r f.taps shift k) ≠ Claims.movedRe e x r f.taps shift k ∨
        Claims.limited (Claims.movedIm e x r f.taps shift k) ≠ Claims.movedIm e x r f.taps shift k)
    delayLine := e.delayLine.set e.writePos x
    writePos := e.writePos + 1 }

/-- A training SYMBOL of an adapting engine: the output goes out and a clipped symbol is counted, as for any; then every
coefficient moves by the error times the conjugate of its value over 2^shift, rounded and clamped; the mark is set where
a clamp changed something; and the pair is kept while fewer than 64 are held (R70, R96 to R101). -/
def Obligations.TrainingSymbolAdaptsCoefficients : Prop :=
  ∀ (c : Channel) (x r : Cplx) (s : State) (w : Window) (e : EngineId) (f : CoefficientSet) (n : Nat),
    (s.burst c).window = some w → w.kind = .unicast → ((s.burst c).state = .live ∨ (s.burst c).state = .grace) →
    (s.burst c).mode = .equalised → (s.burst c).engine = .granted e → (s.engine e).working = some f →
    f.taps.length ≤ 32 → (s.engine e).armed = true → (s.engine e).shift = some n →
    exec (.symbol c x (some r)) s = .next
      (((s.setEngine e { Claims.trained (s.engine e) f n x r with
          training := if (s.engine e).training.length < 64 then (s.engine e).training ++ [(x, r)]
            else (s.engine e).training }).setBurst c
        { s.burst c with clips := Claims.clipsAfter (s.engine e) x f.taps (s.burst c).clips }).emit c
        (.symbol (Claims.output (s.engine e) x f.taps)))

/-- CLAIM stores its token and mark in a contention burst in progress and replaces an earlier one. It is ignored for a
unicast burst, and in CLOSED and OPEN, with a window or without one; and the next contention burst starts without one
(R72). -/
def Obligations.ClaimIsStoredInContentionBurst : Prop :=
  (∀ (c : Channel) (token : Token) (valid : Bool) (s : State),
    (∀ w, (s.burst c).window = some w → w.kind = .contention →
      ((s.burst c).state = .live ∨ (s.burst c).state = .grace) →
      exec (.claim c token valid) s = .next (s.setBurst c { s.burst c with claim := some ⟨token, valid⟩ })) ∧
    ((s.burst c).state = .closed ∨ (s.burst c).state = .opened ∨
        (∃ w, (s.burst c).window = some w ∧ w.kind = .unicast) →
      exec (.claim c token valid) s = .next s)) ∧
  (∀ (c : Channel) (phase : BitVec 6) (s : State) (w : Window), (s.point c).close ≠ some s.counter →
    (s.burst c).state = .opened → (s.burst c).window = some w → w.kind = .contention →
    ∃ t, exec (.detect c phase) s = .next t ∧ (t.burst c).claim = none)

/-- The measurements of a NORMAL burst: arrival minus grant start in fine ticks mod 2^38, read as signed, and the power
and frequency errors as delivered, each forced into its range (R42, R43, R74). -/
def Claims.measured (capture : Capture) (start : Tick) (power frequency : Int) : Offsets where
  timing := Claims.forcedTiming
    (BitVec.ofNat 38 (capture.tick.toNat * 64 + capture.phase.toNat) - BitVec.ofNat 38 (start.toNat * 64)).toInt
  power := Claims.forcedPower power
  frequency := Claims.forcedFrequency frequency

/-- The END of a clean contention burst with a claim marked valid hands it to the Probe List: an entry with the token
is refreshed in place, a new token enters at the end while fewer than 16 are held, and one more is dropped with the
overflow flag. A DISTURBED burst, one with no claim or with one marked invalid hands nothing on; an END with no burst in
progress is ignored (R74, R79, R80, R116, R117, R118, R119). -/
def Obligations.ContentionEndHandsClaimOn : Prop :=
  (∀ (c : Channel) (power frequency : Int) (s : State) (w : Window) (token : Token) (capture : Capture),
    (s.burst c).window = some w → w.kind = .contention →
    ((s.burst c).state = .live ∨ (s.burst c).state = .grace) → (s.burst c).disturbed = false →
    (s.burst c).claim = some ⟨token, true⟩ → (s.burst c).capture = some capture →
    let m := Claims.measured capture w.start power frequency
    let u := (s.setPoint c { s.point c with grace := none }).setBurst c (Claims.endedBurst (s.burst c))
    ((∃ p ∈ s.probes, p.token = token) →
      exec (.burstEnd c power frequency) s = .next { u with
        probes := s.probes.map fun p => if p.token = token then
          ⟨token, c, capture.tick, m, min 255 (p.sightings + 1), 0⟩ else p }) ∧
    ((∀ p ∈ s.probes, p.token ≠ token) → s.probes.length < 16 →
      exec (.burstEnd c power frequency) s = .next { u with
        probes := s.probes ++ [⟨token, c, capture.tick, m, 1, 0⟩] }) ∧
    ((∀ p ∈ s.probes, p.token ≠ token) → 16 ≤ s.probes.length →
      exec (.burstEnd c power frequency) s = .next { u with probeOverflow := true })) ∧
  (∀ (c : Channel) (power frequency : Int) (s : State),
    (∀ w, (s.burst c).window = some w → w.kind = .contention →
      ((s.burst c).state = .live ∨ (s.burst c).state = .grace) →
      ((s.burst c).disturbed = true ∨ (s.burst c).claim = none ∨ ∃ token, (s.burst c).claim = some ⟨token, false⟩) →
      exec (.burstEnd c power frequency) s = .next
        ((s.setPoint c { s.point c with grace := none }).setBurst c (Claims.endedBurst (s.burst c)))) ∧
    ((s.burst c).state = .closed ∨ (s.burst c).state = .opened → exec (.burstEnd c power frequency) s = .next s))

/-- A record as a NORMAL END leaves it: last measured written, misses reloaded, and a STALE record returned by its step
class (R75, R169). -/
def Claims.afterNormalEnd (r : Station) (kind : GrantKind) (errors : Offsets) : Station :=
  { r with lastMeasured := some ⟨kind, errors⟩, missesRemaining := r.missReload,
           state := if r.state = .stale then (if r.stepClass = .coarse then .training else .locked) else r.state }

/-- A unicast burst in progress on slot `i` whose mode is decided, at an END (R74). -/
structure Claims.ending (c : Channel) (w : Window) (i : Slot) (s : State) : Prop where
  window : (s.burst c).window = some w
  kind : w.kind = .unicast
  slot : (s.burst c).slot = some i
  state : (s.burst c).state = .live ∨ (s.burst c).state = .grace
  mode : (s.burst c).mode ≠ .undecided

/-- The part with the channel's grace expiry point removed and the record in slot `i` written as a NORMAL END writes it
(R39, R75). -/
def Claims.normalEnd (c : Channel) (i : Slot) (kind : GrantKind) (errors : Offsets) (s : State) : State :=
  (s.setPoint c { s.point c with grace := none }).setStation i (Claims.afterNormalEnd (s.station i) kind errors)

/-- The NORMAL END of a DATA burst whose mode is decided: the record is written, an engine that served it is released
with no write-back (to IDLE, or to the first waiting request), the record is unbound, and the burst ends with its
trailer NORMAL (R67, R74, R75, R77, R78, R91, R93). -/
def Obligations.DataEndWritesAndUnbindsRecord : Prop :=
  ∀ (c : Channel) (power frequency : Int) (s : State) (w : Window) (i : Slot) (capture : Capture),
    Claims.ending c w i s → w.grant = .data → (s.burst c).disturbed = false → (s.burst c).capture = some capture →
    (s.station i).state ≠ .retiring →
    exec (.burstEnd c power frequency) s = .next (Claims.ends c .normal (Claims.unbound i
      (Claims.itemReleased (s.burst c).engine
        (Claims.normalEnd c i .data (Claims.measured capture w.start power frequency) s))))

/-- The END of a DISTURBED unicast burst, EQUALISED or in BYPASS, writes no measurement: a MAINT burst's record has one
miss, its engine is released with no write-back (to IDLE, or to the first waiting request), the record is unbound, and
the trailer goes out DISTURBED. At the END of a burst whose record is RETIRING the engine is released the same way and the
record becomes FREE with no miss, no write and no completion, whatever the grant kind and the outcome (R20, R74, R76, R77,
R78, R83, R91). -/
def Obligations.DisturbedAndRetiringEndsWriteNoMeasurement : Prop :=
  (∀ (c : Channel) (power frequency : Int) (s : State) (w : Window) (i : Slot), Claims.ending c w i s →
    (s.burst c).disturbed = true → (s.station i).state ≠ .retiring →
    let u := s.setPoint c { s.point c with grace := none }
    exec (.burstEnd c power frequency) s = .next (Claims.ends c .disturbed (Claims.unbound i
      (Claims.itemReleased (s.burst c).engine (if w.grant = .maint then countMiss i u else u))))) ∧
  (∀ (c : Channel) (power frequency : Int) (s : State) (w : Window) (i : Slot), Claims.ending c w i s →
    (s.station i).state = .retiring →
    exec (.burstEnd c power frequency) s = .next
      (Claims.ends c (if (s.burst c).disturbed then .disturbed else .normal) (Claims.unbound i
        (Claims.itemReleased (s.burst c).engine (s.setPoint c { s.point c with grace := none })))))

/-- The NORMAL END of a MAINT burst whose engine adapted and has passes to make, with no request waiting: the record is
written, and the engine and the record's binding go on to settling (R19, R75, R77, R102, R103, R104). -/
def Obligations.MaintEndStartsSettling : Prop :=
  ∀ (c : Channel) (power frequency : Int) (s : State) (w : Window) (i : Slot) (capture : Capture) (e : EngineId),
    Claims.ending c w i s → w.grant = .maint → (s.burst c).disturbed = false → (s.burst c).capture = some capture →
    (s.station i).state ≠ .retiring → (s.burst c).engine = .granted e → (s.engine e).armed = true →
    0 < (s.engine e).passes → s.waiting = [] →
    let errors := Claims.measured capture w.start power frequency
    exec (.burstEnd c power frequency) s = .next (Claims.ends c .normal
      (((s.setPoint c { s.point c with grace := none }).setStation i
        { Claims.afterNormalEnd (s.station i) .maint errors with binding := .settling e }).setEngine e
        { s.engine e with
          state := .settling, channel := none, settlingStart := some s.counter, passesDone := 0,
          checkpoint := (s.engine e).working, checkpointMark := (s.engine e).saturated, errors := some errors,
          delayLine := Vector.replicate 32 ⟨0, 0⟩, writePos := 0 }))

/-- The NORMAL END of a MAINT burst that does not settle brings the completion at once, after the record is written. In
BYPASS it has no set. On an engine that did not adapt, or has no passes to make, it carries the working set and "all passes
done"; with passes to make and a request waiting it carries "not all passes". The engine is then released, to IDLE or to
the first waiting request (R75, R77, R91, R93, R102, R109). -/
def Obligations.MaintEndCompletesWithoutSettling : Prop :=
  ∀ (c : Channel) (power frequency : Int) (s : State) (w : Window) (i : Slot) (capture : Capture),
    Claims.ending c w i s → w.grant = .maint → (s.burst c).disturbed = false → (s.burst c).capture = some capture →
    (s.station i).state ≠ .retiring →
    let errors := Claims.measured capture w.start power frequency
    let written := Claims.normalEnd c i .maint errors s
    ((s.burst c).engine = .none → exec (.burstEnd c power frequency) s =
      .next (Claims.ends c .normal (complete ⟨i, errors, none, 0, true, false⟩ written))) ∧
    (∀ e, (s.burst c).engine = .granted e → ((s.engine e).armed = false ∨ (s.engine e).passes = 0) →
      exec (.burstEnd c power frequency) s = .next (Claims.ends c .normal (Claims.released e
        (complete ⟨i, errors, (s.engine e).working, (s.engine e).generation, true, (s.engine e).saturated⟩ written)))) ∧
    (∀ e, (s.burst c).engine = .granted e → (s.engine e).armed = true → 0 < (s.engine e).passes → s.waiting ≠ [] →
      exec (.burstEnd c power frequency) s = .next (Claims.ends c .normal (Claims.released e
        (complete ⟨i, errors, (s.engine e).working, (s.engine e).generation, false, (s.engine e).saturated⟩ written))))

/-- A pass completes. While passes remain, the pairs of the training buffer have been taken in order, the pass is
counted and checkpointed, and the next one starts. The last pass brings the completion with the set and the mark it left
and "all passes done", and the engine is released, to IDLE or to the first waiting request. An engine that is not SETTLING
has no such event (R91, R104, R105, R109; log entry 6). -/
def Obligations.PassCompletionCheckpointsOrCompletes : Prop :=
  (∀ (e : EngineId) (s : State), (s.engine e).state ≠ .settling → exec (.passCompletion e) s = .next s) ∧
  (∀ (e : EngineId) (s : State) (f : CoefficientSet) (n : Nat), (s.engine e).state = .settling →
    (s.engine e).working = some f → f.taps.length ≤ 32 → (s.engine e).shift = some n →
    let x := (s.engine e).training.foldl
      (fun x p => Claims.trained x (x.working.getD f) n p.1 p.2) (s.engine e)
    ((s.engine e).passesDone + 1 < (s.engine e).passes →
      exec (.passCompletion e) s = .next (s.setEngine e { s.engine e with
        working := x.working, saturated := x.saturated, passesDone := (s.engine e).passesDone + 1,
        checkpoint := x.working, checkpointMark := x.saturated, delayLine := Vector.replicate 32 ⟨0, 0⟩,
        writePos := 0 })) ∧
    (∀ i errors, (s.engine e).passes ≤ (s.engine e).passesDone + 1 → (s.engine e).slot = some i →
      (s.engine e).errors = some errors →
      exec (.passCompletion e) s = .next (Claims.released e
        (complete ⟨i, errors, x.working, (s.engine e).generation, true, x.saturated⟩ s))))

/-- The write-back of a completion is written: an engine served the burst and the record's generation is still the one
it loaded (R110). -/
def Claims.writtenBack (p : Report) (r : Station) : Prop := r.generation = p.generation ∧ p.set ≠ none

/-- Every quantity that a step's mask names is within for the step (R140, R141). -/
def Claims.stepWithin (p : Report) (r : Station) (d : Descriptor) : Prop :=
  (d.mask.timing = true → (Claims.forcedTiming (r.advertised.timing + p.errors.timing) -
    r.advertised.timing).natAbs ≤ d.timingThreshold) ∧
  (d.mask.power = true → (Claims.forcedPower (r.advertised.power + p.errors.power) -
    r.advertised.power).natAbs ≤ d.powerThreshold) ∧
  (d.mask.frequency = true → (Claims.forcedFrequency (r.advertised.frequency + p.errors.frequency) -
    r.advertised.frequency).natAbs ≤ d.frequencyThreshold) ∧
  (d.mask.coefficients = true → Claims.writtenBack p r ∧ p.allPasses = true ∧ p.saturated = false)

/-- The chain at a vector: of the four descriptors from there on, those whose earlier ones all have the chain flag set
and an index below 127 (R132). -/
def Claims.chain (s : State) (vector : DescriptorId) : List Descriptor :=
  ((List.range 4).filter fun k => ∀ j < k,
      (s.descriptor (Fin.ofNat 128 (vector.val + j))).chain = true ∧ vector.val + j < 127).map
    fun k => s.descriptor (Fin.ofNat 128 (vector.val + k))

/-- What a completion on an armed programme writes over its chain: each estimate some step names becomes the advertised
value plus the measured error, clamped; the set is written back at most once and only where the generations agree; the
rest of both stands. With the programme disarmed no chain is walked: SATURATED is added where the report's mark is set.
Either way the record is unbound (R110, R132, R133, R139, R140, R141). -/
def Obligations.CompletionWritesEstimatesAndSet : Prop :=
  (∀ (p : Report) (s : State), (s.station p.slot).armed = true → (s.station p.slot).state ≠ .retiring →
    let r := s.station p.slot
    let steps := Claims.chain s r.vector
    let r' := (complete p s).station p.slot
    ((∃ d ∈ steps, d.mask.timing = true) →
      r'.estimate.timing = Claims.forcedTiming (r.advertised.timing + p.errors.timing)) ∧
    ((∀ d ∈ steps, d.mask.timing = false) → r'.estimate.timing = r.estimate.timing) ∧
    ((∃ d ∈ steps, d.mask.power = true) →
      r'.estimate.power = Claims.forcedPower (r.advertised.power + p.errors.power)) ∧
    ((∀ d ∈ steps, d.mask.power = false) → r'.estimate.power = r.estimate.power) ∧
    ((∃ d ∈ steps, d.mask.frequency = true) →
      r'.estimate.frequency = Claims.forcedFrequency (r.advertised.frequency + p.errors.frequency)) ∧
    ((∀ d ∈ steps, d.mask.frequency = false) → r'.estimate.frequency = r.estimate.frequency) ∧
    ((∃ d ∈ steps, d.mask.coefficients = true) → Claims.writtenBack p r → r'.coefficients = p.set) ∧
    ((∀ d ∈ steps, d.mask.coefficients = false) ∨ ¬ Claims.writtenBack p r → r'.coefficients = r.coefficients) ∧
    r'.advertised = r.advertised ∧ r'.lastMeasured = r.lastMeasured ∧ r'.generation = r.generation ∧
    r'.sid = r.sid ∧ r'.channel = r.channel ∧ r'.missReload = r.missReload ∧
    r'.missesRemaining = r.missesRemaining ∧ r'.vector = r.vector ∧ r'.binding = .none) ∧
  (∀ (p : Report) (s : State), (s.station p.slot).armed = false → (s.station p.slot).state ≠ .retiring →
    let r := s.station p.slot
    (p.saturated = false → complete p s = s.setStation p.slot { r with binding := .none }) ∧
    (p.saturated = true → complete p s =
      { s.setStation p.slot { r with binding := .none, attention := { r.attention with saturated := true } } with
        counts := if r.attention.saturated then s.counts
          else { s.counts with saturated := s.counts.saturated + 1 } }))

/-- How a completion on an armed programme counts, decides, moves and tells: SETTLED when every quantity of every step
is within, else ADJUST, or DROP when a ONCE programme runs out on a record still training; remaining falls, also where
ARM PROGRAMME has just written it (the model's reading beside a sentence of R138, log entry 22), and at 0 the
programme ends or reloads; the record moves by the saturation mark and the verdict, a LOCKED one keeping its step
class on a clean run, where R145 names none (R8, R147; so beside the last sentence of R171 the model's reading, log
entry 20); PROGRAMME-DONE and SATURATED join its attention, each raising its count where it was lacking; on ADJUST,
DROP and a newly SETTLED run a correction request is made for the record so written, and otherwise none; last, the
record is unbound, and nothing else of the part changes (R12, R142 to R146). -/
def Obligations.CompletionDecidesVerdictAndMoves : Prop :=
  ∀ (p : Report) (s : State) (v : Verdict), (s.station p.slot).armed = true → 1 ≤ (s.station p.slot).remaining →
    (s.station p.slot).state ≠ .retiring →
    let r := s.station p.slot
    let first := s.descriptor r.vector
    let steps := Claims.chain s r.vector
    let done := decide (r.remaining = 1 ∧ (first.mode = .once ∨ first.noticeOnRepeat = true))
    ((∀ d ∈ steps, Claims.stepWithin p r d) → v = .settled) →
    (¬ (∀ d ∈ steps, Claims.stepWithin p r d) → v =
      if r.remaining = 1 ∧ first.mode = .once ∧
        (r.state = .training ∨ (r.state = .stale ∧ r.stepClass = .coarse)) then .drop else .adjust) →
    ∃ r' : Station,
      (let told := { s.setStation p.slot r' with
          counts := {
            staleNew := s.counts.staleNew
            programmeDone := s.counts.programmeDone + (if done ∧ r.attention.programmeDone = false then 1 else 0)
            saturated := s.counts.saturated + (if p.saturated ∧ r.attention.saturated = false then 1 else 0) } }
       let asked := if v = .settled ∧ r.lastVerdict = .settled then told else requestCorrection p.slot told
       complete p s = asked.setStation p.slot { asked.station p.slot with binding := .none }) ∧
      r'.attention = ⟨r.attention.staleNew, r.attention.programmeDone || done, r.attention.saturated || p.saturated⟩ ∧
      r'.lastVerdict = v ∧
      (r'.exportWanted = true ↔ ∃ d ∈ steps, d.exportSet = true ∧ d.mask.coefficients = true) ∧
      (2 ≤ r.remaining → r'.armed = true ∧ r'.remaining = r.remaining - 1) ∧
      (r.remaining = 1 → first.mode = .once → r'.armed = false ∧ r'.remaining = 0) ∧
      (r.remaining = 1 → first.mode = .repeating → r'.armed = true ∧ r'.remaining = first.count) ∧
      (r.state = .training → r'.state = if p.saturated = false ∧ v = .settled then .locked else .training) ∧
      (r.state = .locked → r'.state = if p.saturated then .training else .locked) ∧
      (r.state = .stale → r'.state = .stale) ∧
      (r.state ≠ .free → p.saturated = true → r'.stepClass = .coarse) ∧
      (r.state = .training ∨ r.state = .stale → p.saturated = false → v = .settled → r'.stepClass = .fine) ∧
      (p.saturated = false → v ≠ .settled ∨ r.state = .locked → r'.stepClass = r.stepClass) ∧
      r'.correction = r.correction ∧ r'.reCorrect = r.reCorrect ∧ r'.binding = r.binding

/-- The entry built from a record as it stands (R152, R153). -/
def Claims.entryOf (i : Slot) (r : Station) : Correction where
  slot := i
  sid := r.sid
  adjust := ⟨r.estimate.timing - r.advertised.timing, r.estimate.power - r.advertised.power,
    r.estimate.frequency - r.advertised.frequency⟩
  verdict := if r.lastVerdict = .none then .adjust else r.lastVerdict
  coefficients := if r.exportWanted then r.coefficients else none

/-- A correction request is served by the record's correction state: NONE enters the queue with an entry built now, or
the Held List when the queue holds 32; HELD changes nothing; QUEUED sets the re-correct flag (R152 to R156). -/
def Obligations.CorrectionRequestByState : Prop :=
  ∀ (i : Slot) (s : State),
    let r := s.station i
    (r.correction = .none → s.queue.length < 32 →
      requestCorrection i s = { s.setStation i { r with correction := .queued, reCorrect := false } with
        queue := s.queue ++ [Claims.entryOf i r] }) ∧
    (r.correction = .none → 32 ≤ s.queue.length →
      requestCorrection i s = { s.setStation i { r with correction := .held, reCorrect := false } with
        held := s.held ++ [i] }) ∧
    (r.correction = .held → requestCorrection i s = s) ∧
    (r.correction = .queued → requestCorrection i s = s.setStation i { r with reCorrect := true })

/-! ### The Host Link (chapter 10) -/

/-- An address character selects the part when it equals the strapped address, else deselects it, and discards a
partial request. A faulty character sets its flag and leads to DISCARDING while the part is selected, and is ignored
otherwise. A data character goes into the partial request by the receiver state, with the running sum and at most 250
body characters kept; in DESELECTED and DISCARDING it is ignored (R181, R182, R183). -/
def Obligations.CharactersMoveReceiver : Prop :=
  (∀ (v : Byte) (s : State),
    (v.toNat = s.link.address.toNat →
      exec (.addressCharacter v) s = .next { s with link := { s.link with receiver := .awaitCode } }) ∧
    (v.toNat ≠ s.link.address.toNat →
      exec (.addressCharacter v) s = .next { s with link := { s.link with receiver := .deselected } })) ∧
  (∀ (s : State),
    (s.link.receiver ≠ .deselected →
      exec (.faultyCharacter .framing) s =
        .next { s with link := { s.link with framing := true, receiver := .discarding } } ∧
      exec (.faultyCharacter .parity) s =
        .next { s with link := { s.link with parity := true, receiver := .discarding } }) ∧
    (∀ f, s.link.receiver = .deselected → exec (.faultyCharacter f) s = .next s)) ∧
  (∀ (v : Byte) (s : State),
    (s.link.receiver = .deselected ∨ s.link.receiver = .discarding → exec (.dataCharacter v) s = .next s) ∧
    (s.link.receiver = .awaitCode →
      exec (.dataCharacter v) s = .next { s with link := { s.link with receiver := .awaitLength v v } }) ∧
    (∀ code sum, s.link.receiver = .awaitLength code sum →
      exec (.dataCharacter v) s = .next { s with link := { s.link with
        receiver := if v = 0 then .awaitChecksum ⟨code, v, [], 0, sum + v⟩ else .body ⟨code, v, [], 0, sum + v⟩ } }) ∧
    (∀ p, s.link.receiver = .body p →
      exec (.dataCharacter v) s = .next { s with link := { s.link with
        receiver :=
          if p.received + 1 = p.length.toNat then
            .awaitChecksum { p with body := if p.body.length < 250 then p.body ++ [v] else p.body,
                                    received := p.received + 1, sum := p.sum + v }
          else .body { p with body := if p.body.length < 250 then p.body ++ [v] else p.body,
                              received := p.received + 1, sum := p.sum + v } } }))

/-- The checksum character takes the request while no response is being sent. Its checks come in this order: a sum that
differs answers CHECKSUM, a code of no request UNKNOWN, a length the request does not allow, or one above 250, LENGTH;
then the request's own effect and reply. The receiver is back in AWAIT CODE (R183, R184). -/
def Obligations.ChecksumCharacterTakesRequest : Prop :=
  ∀ (v : Byte) (s : State) (p : PartialRequest), s.link.receiver = .awaitChecksum p → s.link.sending = none →
    (p.sum ≠ v → exec (.dataCharacter v) s = .next (s.answered .checksum [])) ∧
    (p.sum = v → decodeRequest p.code p.body = .error .unknown →
      exec (.dataCharacter v) s = .next (s.answered .unknown [])) ∧
    (p.sum = v → decodeRequest p.code p.body = .error .length →
      exec (.dataCharacter v) s = .next (s.answered .length [])) ∧
    (∀ i, p.sum = v → decodeRequest p.code p.body = .ok i → 250 < p.length.toNat →
      exec (.dataCharacter v) s = .next (s.answered .length [])) ∧
    (∀ i, p.sum = v → decodeRequest p.code p.body = .ok i → p.length.toNat ≤ 250 →
      exec (.dataCharacter v) s = exec i { s with link := { s.link with receiver := .awaitCode } })

/-- A request taken while a response is being sent is discarded whole and OVERRUN set, whatever it is; the response in
progress stands and the receiver goes to AWAIT CODE. So with a request as one command (log entry 2) and with a checksum
character, right or wrong (R184, R186). -/
def Obligations.OverrunDiscardsRequest : Prop :=
  (∀ (c : Instr) (s : State), encodeRequest c ≠ none → s.link.sending ≠ none →
    exec c s = .next { s with link := { s.link with receiver := .awaitCode, overrun := true } }) ∧
  (∀ (v : Byte) (p : PartialRequest) (s : State), s.link.receiver = .awaitChecksum p → s.link.sending ≠ none →
    exec (.dataCharacter v) s = .next { s with link := { s.link with receiver := .awaitCode, overrun := true } })

/-- The code of a status (R195). -/
def Claims.statusCode : Status → Byte
  | .ok => 0x00
  | .empty => 0x01
  | .notFound => 0x02
  | .busy => 0x03
  | .full => 0x04
  | .inUse => 0x05
  | .range => 0x06
  | .order => 0x07
  | .late => 0x08
  | .overlap => 0x09
  | .state => 0x0A
  | .checksum => 0x0B
  | .unknown => 0x0C
  | .length => 0x0D

/-- When the last character of the response has been sent, the response line is driven no longer. A response holds
status, fault flags, length, body and checksum, the sum mod 256 of all before it; the flags are FRAMING in bit 0, PARITY
in bit 1, OVERRUN in bit 2, and all three are clear once the response has begun (R185, R186, R195). -/
def Obligations.ResponseCarriesFlagsAndEnds : Prop :=
  (∀ s : State, exec .responseEnd s = .next { s with link := { s.link with sending := none } }) ∧
  (∀ (u : State) (status : Status) (body : List Byte),
    (u.answered status body).link.framing = false ∧ (u.answered status body).link.parity = false ∧
    (u.answered status body).link.overrun = false ∧ (u.answered status body).link.receiver = .awaitCode ∧
    ∃ flags sum : Byte,
      (u.answered status body).link.sending =
        some (Claims.statusCode status :: flags :: BitVec.ofNat 8 body.length :: body ++ [sum]) ∧
      flags.toNat = (if u.link.framing then 1 else 0) + (if u.link.parity then 2 else 0) +
        (if u.link.overrun then 4 else 0) ∧
      sum.toNat = ((Claims.statusCode status).toNat + flags.toNat + body.length + (body.map BitVec.toNat).sum) % 256)

/-- NOTICE is asserted exactly while one of its conditions holds: an entry in the Correction Queue or the Probe List, an
attention count above 0, a STARVED channel, the probe-overflow flag, or a fault flag pending report (R190). -/
def Obligations.NoticeConditions : Prop :=
  ∀ s : State, s.notice = true ↔
    s.queue ≠ [] ∨ s.probes ≠ [] ∨ 0 < s.counts.staleNew ∨ 0 < s.counts.programmeDone ∨ 0 < s.counts.saturated ∨
    (∃ c, (s.map c).state = .starved) ∨ s.probeOverflow = true ∨
    s.link.framing = true ∨ s.link.parity = true ∨ s.link.overrun = true

/-! ### Requests on the part and on station records (chapters 1, 7, 8, 9, 10) -/

/-- The three characters of an engine in the status block: IDLE 0 and 0, LIVE 1 and its channel, SETTLING 2 and its slot
(R113, R196). -/
def Claims.engineField (e : Engine) : List Byte :=
  match e.state with
  | .idle => 0 :: Claims.two 0
  | .live => 1 :: Claims.two (match e.channel with | some c => c.val | none => 0)
  | .settling => 2 :: Claims.two (match e.slot with | some i => i.val | none => 0)

/-- STATUS answers the status block of the state as it stands, then clears the probe-overflow flag (R126, R189, R198). -/
def Obligations.StatusReportsAndClearsOverflow : Prop :=
  ∀ s : State, s.link.sending = none →
    exec .status s = .next (State.answered { s with probeOverflow := false } .ok
      (([0, 1, 2, 3] : List Channel).map (fun c =>
          (match (s.map c).state with | .off => 0 | .starved => 1 | .running => 2 : Byte))
        ++ [RecordState.free, .training, .locked, .stale, .retiring].flatMap (fun x =>
          Claims.two ((List.finRange 1024).filter fun i => (s.station i).state = x).length)
        ++ Claims.two s.counts.staleNew ++ Claims.two s.counts.programmeDone ++ Claims.two s.counts.saturated
        ++ [BitVec.ofNat 8 s.queue.length] ++ Claims.two s.held.length ++ [BitVec.ofNat 8 s.probes.length]
        ++ [if s.probeOverflow then 1 else 0]
        ++ ([0, 1, 2] : List EngineId).flatMap (fun e => Claims.engineField (s.engine e))))

/-- A SID that names no record: RANGE for 0, 4,095 and values above, NOT-FOUND for an empty SID Map entry (R14). -/
def Claims.sidRefusal (s : State) (v : BitVec 16) (status : Status) : Prop :=
  ((v.toNat = 0 ∨ 4095 ≤ v.toNat) ∧ status = .range) ∨
  (1 ≤ v.toNat ∧ v.toNat ≤ 4094 ∧ s.sidEntry (Fin.ofNat 4096 v.toNat) = none ∧ status = .notFound)

/-- A SID that names the record in slot `i` (R14). -/
def Claims.sidNames (s : State) (v : BitVec 16) (i : Slot) : Prop :=
  1 ≤ v.toNat ∧ v.toNat ≤ 4094 ∧ s.sidEntry (Fin.ofNat 4096 v.toNat) = some i

/-- Every request that names a SID refuses one that names no record: LOOKUP, WRITE STATION, RETIRE, ACK ATTENTION, ARM
PROGRAMME and DISARM PROGRAMME. A WRITE STATION that carries an identifier outside 1..10 is refused with RANGE before its
SID is looked at, since no check of R26 covers the identifier (R196, R199; read so, log entry 12). MAP CLOSE, CHANNEL ON
and CHANNEL OFF refuse a channel outside 0..3 with RANGE. Nothing changes then but the link (R14, R24, R26, R28, R50, R56,
R57, R136, R137, R172). -/
def Obligations.UnknownSidOrChannelIsRefused : Prop :=
  (∀ (v : BitVec 16) (status : Status) (s : State), s.link.sending = none → Claims.sidRefusal s v status →
    exec (.lookup v) s = .next (s.answered status []) ∧
    (∀ l, settingsSpelled l = true → (∀ n rest, Setting.unknown n rest ∉ l) →
      exec (.writeStation v l) s = .next (s.answered status [])) ∧
    exec (.retire v) s = .next (s.answered status []) ∧
    (∀ ks : List Byte, ks.length ≤ 3 → exec (.ackAttention v ks) s = .next (s.answered status [])) ∧
    (∀ x, exec (.armProgramme v x) s = .next (s.answered status [])) ∧
    exec (.disarmProgramme v) s = .next (s.answered status [])) ∧
  (∀ (v : BitVec 16) (l : List Setting) (n : Byte) (rest : List Byte) (s : State), s.link.sending = none →
    settingsSpelled l = true → Setting.unknown n rest ∈ l →
    exec (.writeStation v l) s = .next (s.answered .range [])) ∧
  (∀ (ch : Byte) (s : State), s.link.sending = none → 4 ≤ ch.toNat →
    exec (.mapClose ch) s = .next (s.answered .range []) ∧
    exec (.channelOn ch) s = .next (s.answered .range []) ∧
    exec (.channelOff ch) s = .next (s.answered .range []))

/-- The three kinds of attention in one character: STALE-NEW in bit 0, PROGRAMME-DONE in bit 1, SATURATED in bit 2
(R196). -/
def Claims.attentionCode (a : Attention) : Byte :=
  BitVec.ofNat 8 ((if a.staleNew then 1 else 0) + (if a.programmeDone then 2 else 0) + (if a.saturated then 4 else 0))

/-- The code of a verdict (R196). -/
def Claims.verdictCode : Verdict → Byte
  | .none => 0
  | .adjust => 1
  | .settled => 2
  | .drop => 3

/-- A coefficient set field: 80h for no set; else the tap count code, the main tap and the coefficients, real part before
imaginary part (R197). -/
def Claims.setField : Option CoefficientSet → List Byte
  | none => [0x80]
  | some f => [(match f.count with | .t8 => 1 | .t16 => 2 | .t24 => 3 | .t32 => 0 : Byte), BitVec.ofNat 8 f.main] ++
      f.taps.flatMap fun x => Claims.two x.re.toInt ++ Claims.two x.im.toInt

/-- Timing in 3 characters, power in 2, frequency in 2 (R196, R198). -/
def Claims.offsetField (o : Offsets) : List Byte :=
  Claims.three o.timing ++ Claims.two o.power ++ Claims.two o.frequency

/-- The record block of a record in a slot (R196, R197, R198). -/
def Claims.recordField (i : Slot) (r : Station) : List Byte :=
  Claims.two i.val
    ++ [(match r.state with | .free => 0 | .training => 1 | .locked => 2 | .stale => 3 | .retiring => 4 : Byte)]
    ++ Claims.two r.sid.val ++ [BitVec.ofNat 8 r.channel.val]
    ++ Claims.offsetField r.estimate ++ Claims.offsetField r.advertised
    ++ (match r.lastMeasured with
      | none => List.replicate 9 0
      | some m => 1 :: (match m.kind with | .data => 0 | .maint => 1 | .initial => 2 : Byte) :: Claims.offsetField m.errors)
    ++ [r.generation, if r.stepClass = .fine then 1 else 0, BitVec.ofNat 8 r.missReload,
        BitVec.ofNat 8 r.missesRemaining, if r.armed then 1 else 0, BitVec.ofNat 8 r.vector.val,
        BitVec.ofNat 8 r.remaining, Claims.verdictCode r.lastVerdict, if r.exportWanted then 1 else 0,
        BitVec.ofNat 8 ((match r.correction with | .none => 0 | .held => 1 | .queued => 2) +
          (if r.reCorrect then 128 else 0)),
        Claims.attentionCode r.attention,
        (match r.binding with
          | .none => 0
          | .burst c => BitVec.ofNat 8 (16 + c.val)
          | .settling e => BitVec.ofNat 8 (32 + e.val) : Byte)]
    ++ Claims.setField r.coefficients

/-- LOOKUP and LOOKUP SLOT answer the record block of the record as it stands. SCAN answers the first slot from the
starting slot upward whose attention holds the kind, with its SID, or EMPTY. A slot or a kind out of range is refused with
RANGE. None of them changes anything (R24, R25, R198). -/
def Obligations.LookupsReportRecordAndScanFindsAttention : Prop :=
  (∀ (v : BitVec 16) (s : State), s.link.sending = none →
    (∀ i, Claims.sidNames s v i → exec (.lookup v) s = .next (s.answered .ok (Claims.recordField i (s.station i)))) ∧
    (∀ i : Slot, v.toNat = i.val →
      exec (.lookupSlot v) s = .next (s.answered .ok (Claims.recordField i (s.station i)))) ∧
    (1024 ≤ v.toNat → exec (.lookupSlot v) s = .next (s.answered .range []))) ∧
  (∀ (v : BitVec 16) (k : Byte) (kind : AttentionKind) (s : State), s.link.sending = none →
    (1024 ≤ v.toNat ∨ k = 0 ∨ 4 ≤ k.toNat → exec (.scan v k) s = .next (s.answered .range [])) ∧
    ((k = 1 ∧ kind = .staleNew) ∨ (k = 2 ∧ kind = .programmeDone) ∨ (k = 3 ∧ kind = .saturated) → v.toNat < 1024 →
      (∀ i : Slot, v.toNat ≤ i.val → (s.station i).attention.has kind = true →
        (∀ j : Slot, v.toNat ≤ j.val → j < i → (s.station j).attention.has kind = false) →
        exec (.scan v k) s = .next (s.answered .ok (Claims.two i.val ++ Claims.two (s.station i).sid.val))) ∧
      ((∀ j : Slot, v.toNat ≤ j.val → (s.station j).attention.has kind = false) →
        exec (.scan v k) s = .next (s.answered .empty []))))

/-- A setting's value lies in its field's range, and a coefficient set it carries satisfies R6; the setting names a field
of R199 (R1, R6, R26; the unknown identifier, log entry 12). -/
def Claims.settingInRange : Setting → Prop
  | .channel v => v.toNat ≤ 3
  | .timingEstimate v => -1048576 ≤ v.toInt ∧ v.toInt ≤ 1048575
  | .powerEstimate v => -256 ≤ v.toInt ∧ v.toInt ≤ 255
  | .frequencyEstimate _ => True
  | .advertisedTiming v => -1048576 ≤ v.toInt ∧ v.toInt ≤ 1048575
  | .advertisedPower v => -256 ≤ v.toInt ∧ v.toInt ≤ 255
  | .advertisedFrequency _ => True
  | .coefficients (.absent low) => low = 0
  | .coefficients (.present code reserved main _) => reserved = 0 ∧ main.toNat < tapsOfCode code
  | .missReload v => 1 ≤ v.toNat
  | .stepClass v => v.toNat ≤ 1
  | .unknown _ _ => False

/-- A list of settings that WRITE STATION takes on a record: spelled, no field twice, every value in range, and on a
bound record only the miss reload and the step class (R26). -/
def Claims.settingsTaken (r : Station) (l : List Setting) : Prop :=
  settingsSpelled l = true ∧ (l.map Setting.identifier).Nodup ∧ (∀ x ∈ l, Claims.settingInRange x) ∧
  (r.binding ≠ .none → ∀ x ∈ l, (∃ v, x = .missReload v) ∨ (∃ v, x = .stepClass v))

/-- An accepted WRITE STATION writes each field it names and no other; a coefficient setting raises the generation by
one. It answers the slot and the generation (R7, R26, R27). -/
def Obligations.WriteStationAppliesSettings : Prop :=
  ∀ (v : BitVec 16) (l : List Setting) (i : Slot) (s : State), s.link.sending = none → Claims.sidNames s v i →
    Claims.settingsTaken (s.station i) l →
    let r := s.station i
    ∃ r', exec (.writeStation v l) s =
        .next ((s.setStation i r').answered .ok (Claims.two i.val ++ [r'.generation])) ∧
      (∀ x, .channel x ∈ l → r'.channel.val = x.toNat) ∧ ((∀ x, .channel x ∉ l) → r'.channel = r.channel) ∧
      (∀ x, .timingEstimate x ∈ l → r'.estimate.timing = x.toInt) ∧
      ((∀ x, .timingEstimate x ∉ l) → r'.estimate.timing = r.estimate.timing) ∧
      (∀ x, .powerEstimate x ∈ l → r'.estimate.power = x.toInt) ∧
      ((∀ x, .powerEstimate x ∉ l) → r'.estimate.power = r.estimate.power) ∧
      (∀ x, .frequencyEstimate x ∈ l → r'.estimate.frequency = x.toInt) ∧
      ((∀ x, .frequencyEstimate x ∉ l) → r'.estimate.frequency = r.estimate.frequency) ∧
      (∀ x, .advertisedTiming x ∈ l → r'.advertised.timing = x.toInt) ∧
      ((∀ x, .advertisedTiming x ∉ l) → r'.advertised.timing = r.advertised.timing) ∧
      (∀ x, .advertisedPower x ∈ l → r'.advertised.power = x.toInt) ∧
      ((∀ x, .advertisedPower x ∉ l) → r'.advertised.power = r.advertised.power) ∧
      (∀ x, .advertisedFrequency x ∈ l → r'.advertised.frequency = x.toInt) ∧
      ((∀ x, .advertisedFrequency x ∉ l) → r'.advertised.frequency = r.advertised.frequency) ∧
      (.coefficients (.absent 0) ∈ l → r'.coefficients = none ∧ r'.generation = r.generation + 1) ∧
      (∀ code main taps, .coefficients (.present code 0 main taps) ∈ l →
        (∃ f, r'.coefficients = some f ∧ f.count.toNat = tapsOfCode code ∧ f.main = main.toNat ∧ f.taps = taps) ∧
        r'.generation = r.generation + 1) ∧
      ((∀ f, .coefficients f ∉ l) → r'.coefficients = r.coefficients ∧ r'.generation = r.generation) ∧
      (∀ x, .missReload x ∈ l → r'.missReload = x.toNat) ∧
      ((∀ x, .missReload x ∉ l) → r'.missReload = r.missReload) ∧
      (.stepClass 0 ∈ l → r'.stepClass = .coarse) ∧ (.stepClass 1 ∈ l → r'.stepClass = .fine) ∧
      ((∀ x, .stepClass x ∉ l) → r'.stepClass = r.stepClass) ∧
      r'.state = r.state ∧ r'.sid = r.sid ∧ r'.lastMeasured = r.lastMeasured ∧
      r'.missesRemaining = r.missesRemaining ∧ r'.armed = r.armed ∧ r'.vector = r.vector ∧
      r'.remaining = r.remaining ∧ r'.lastVerdict = r.lastVerdict ∧ r'.exportWanted = r.exportWanted ∧
      r'.correction = r.correction ∧ r'.reCorrect = r.reCorrect ∧ r'.attention = r.attention ∧
      r'.binding = r.binding

/-- The values of ADMIT lie in their ranges, as the record takes them (R21 check 1, R199). -/
structure Claims.admitValues (b : AdmitBody) (sid : Sid) (channel : Channel) (vector : Option DescriptorId)
    (set : Option CoefficientSet) : Prop where
  sid : b.sid.toNat = sid.val ∧ 1 ≤ sid.val ∧ sid.val ≤ 4094
  channel : b.channel.toNat = channel.val
  missReload : 1 ≤ b.missReload.toNat
  reserved : b.reserved = 0
  vector : b.vector.map BitVec.toNat = vector.map Fin.val
  coefficients : (b.coefficients = .absent 0 ∧ set = none) ∨
    ∃ code main taps f, b.coefficients = .present code 0 main taps ∧ taps.length = tapsOfCode code ∧
      main.toNat < tapsOfCode code ∧ set = some f ∧ f.count.toNat = tapsOfCode code ∧ f.main = main.toNat ∧
      f.taps = taps

/-- The record ADMIT writes (R22). -/
def Claims.admitted (s : State) (b : AdmitBody) (sid : Sid) (channel : Channel) (vector : Option DescriptorId)
    (set : Option CoefficientSet) : Station :=
  { state := .training, sid := sid, channel := channel, estimate := ⟨0, 0, 0⟩, advertised := ⟨0, 0, 0⟩,
    lastMeasured := none, coefficients := set, generation := 0, stepClass := .coarse,
    missReload := b.missReload.toNat, missesRemaining := b.missReload.toNat, armed := vector.isSome,
    vector := vector.getD 0, remaining := (match vector with | some d => (s.descriptor d).count | none => 0),
    lastVerdict := .none, exportWanted := false, correction := .none, reCorrect := false,
    attention := ⟨false, false, false⟩, binding := .none }

/-- ADMIT takes the lowest FREE slot, writes its record and fills the SID Map entry, and answers the slot. With a token
the probe's measurements become the estimates, its entry leaves the list, and a correction is requested: an entry in the
queue, or a place on the Held List when the queue holds 32 (R15, R21, R22, R23). -/
def Obligations.AdmitWritesRecord : Prop :=
  ∀ (b : AdmitBody) (sid : Sid) (channel : Channel) (vector : Option DescriptorId) (set : Option CoefficientSet)
    (i : Slot) (s : State), s.link.sending = none → Claims.admitValues b sid channel vector set →
    s.sidEntry sid = none → (s.station i).state = .free → (∀ j, j < i → (s.station j).state ≠ .free) →
    let r := Claims.admitted s b sid channel vector set
    (b.token = none →
      exec (.admitStation b) s =
        .next (((s.setStation i r).setSidEntry sid (some i)).answered .ok (Claims.two i.val))) ∧
    (∀ t before after p, b.token = some t → s.probes = before ++ p :: after → p.token = t →
      (∀ q ∈ before ++ after, q.token ≠ t) → p.errors.InRange →
      (s.queue.length < 32 →
        exec (.admitStation b) s = .next (State.answered
          { (s.setStation i { r with estimate := p.errors, correction := .queued }).setSidEntry sid (some i) with
            probes := before ++ after,
            queue := s.queue ++ [⟨i, sid, p.errors, .adjust, none⟩] } .ok (Claims.two i.val))) ∧
      (32 ≤ s.queue.length →
        exec (.admitStation b) s = .next (State.answered
          { (s.setStation i { r with estimate := p.errors, correction := .held }).setSidEntry sid (some i) with
            probes := before ++ after, held := s.held ++ [i] } .ok (Claims.two i.val))))

/-- A WRITE STATION with a value out of range or a field named twice is refused with RANGE, and one that names a
restricted field of a bound record with BUSY. ADMIT's refusals come in the order RANGE, IN-USE, FULL, NOT-FOUND. None of
them changes anything but the link (R21, R26). -/
def Obligations.SetUpRefusals : Prop :=
  (∀ (v : BitVec 16) (l : List Setting) (i : Slot) (s : State), s.link.sending = none → Claims.sidNames s v i →
    settingsSpelled l = true →
    (¬ (l.map Setting.identifier).Nodup ∨ (∃ x ∈ l, ¬ Claims.settingInRange x) →
      exec (.writeStation v l) s = .next (s.answered .range [])) ∧
    ((l.map Setting.identifier).Nodup → (∀ x ∈ l, Claims.settingInRange x) → (s.station i).binding ≠ .none →
      (∃ x ∈ l, (∀ y, x ≠ .missReload y) ∧ (∀ y, x ≠ .stepClass y)) →
      exec (.writeStation v l) s = .next (s.answered .busy []))) ∧
  (∀ (b : AdmitBody) (s : State), s.link.sending = none → b.coefficients.wellFormed = true →
    ((∀ sid channel vector set, ¬ Claims.admitValues b sid channel vector set) →
      exec (.admitStation b) s = .next (s.answered .range [])) ∧
    (∀ sid channel vector set, Claims.admitValues b sid channel vector set →
      (s.sidEntry sid ≠ none → exec (.admitStation b) s = .next (s.answered .inUse [])) ∧
      (s.sidEntry sid = none → (∀ i, (s.station i).state ≠ .free) →
        exec (.admitStation b) s = .next (s.answered .full [])) ∧
      (∀ t i, s.sidEntry sid = none → (s.station i).state = .free → b.token = some t →
        (∀ p ∈ s.probes, p.token ≠ t) → exec (.admitStation b) s = .next (s.answered .notFound []))))

/-- RETIRE withdraws the correction of the record in slot `i` by its correction state. QUEUED: its entry leaves the queue
and the freed place goes to the head of the Held List, with an entry built now; HELD: its place on the Held List is given
up (R160, R162). The record itself is written after. -/
def Claims.withdrawn (i : Slot) (s : State) : State :=
  match (s.station i).correction, s.held with
  | .none, _ => s
  | .held, _ => { s with held := s.held.filter fun j => j ≠ i }
  | .queued, [] => { s with queue := s.queue.filter fun e => e.slot ≠ i }
  | .queued, h :: rest =>
    { s.setStation h { s.station h with correction := .queued, reCorrect := false } with
      queue := (s.queue.filter fun e => e.slot ≠ i) ++ [Claims.entryOf h (s.station h)], held := rest }

/-- RETIRE empties the SID Map entry, withdraws the correction of the record, whether it is QUEUED, HELD or neither, lowers
the counts of the kinds the record held, and answers the slot and the state. An unbound record becomes FREE with its part
reset values. One held by a settling engine becomes FREE with no completion, and the engine is released, to IDLE or to the
first waiting request. One held by a channel burst becomes RETIRING, its programme disarmed, its attention empty and its
correction state NONE (R107, R160, R162, R172 to R175). No record is both the one retired and the head of the Held List
while it is QUEUED. -/
def Obligations.RetireByHolderAndCorrection : Prop :=
  ∀ (v : BitVec 16) (i : Slot) (s : State), s.link.sending = none → Claims.sidNames s v i →
    ((s.station i).correction = .queued → s.held.head? ≠ some i) →
    let r := s.station i
    let gone := State.setSidEntry { Claims.withdrawn i s with counts := Claims.countsWithout s.counts r.attention }
      (Fin.ofNat 4096 v.toNat) none
    (r.binding = .none →
      exec (.retire v) s = .next ((gone.setStation i Station.reset).answered .ok (Claims.two i.val ++ [0]))) ∧
    (∀ e, r.binding = .settling e → exec (.retire v) s =
      .next ((Claims.released e (gone.setStation i Station.reset)).answered .ok (Claims.two i.val ++ [0]))) ∧
    (∀ c, r.binding = .burst c →
      exec (.retire v) s = .next ((gone.setStation i { r with
        state := .retiring, armed := false, remaining := 0, correction := .none, reCorrect := false,
        attention := ⟨false, false, false⟩ }).answered .ok (Claims.two i.val ++ [4])))

/-- ACK ATTENTION removes the named kinds that the record holds, each lowering its count by one, and answers the set
that remains; a kind outside the three is refused with RANGE, a SID that names no record with RANGE or NOT-FOUND (R12,
R28). -/
def Obligations.AckAttentionRemovesKinds : Prop :=
  (∀ (v : BitVec 16) (ks : List Byte) (status : Status) (s : State), s.link.sending = none →
    Claims.sidRefusal s v status → ks.length ≤ 3 → exec (.ackAttention v ks) s = .next (s.answered status [])) ∧
  ∀ (v : BitVec 16) (ks : List Byte) (i : Slot) (s : State), s.link.sending = none → Claims.sidNames s v i →
    ks.length ≤ 3 →
    let a := (s.station i).attention
    let kept : Attention := ⟨a.staleNew && !ks.contains 1, a.programmeDone && !ks.contains 2,
      a.saturated && !ks.contains 3⟩
    let gone : Attention := ⟨a.staleNew && ks.contains 1, a.programmeDone && ks.contains 2,
      a.saturated && ks.contains 3⟩
    ((∀ k ∈ ks, k = 1 ∨ k = 2 ∨ k = 3) →
      exec (.ackAttention v ks) s = .next (State.answered
        { s.setStation i { s.station i with attention := kept } with counts := Claims.countsWithout s.counts gone }
        .ok [Claims.attentionCode kept])) ∧
    ((∃ k ∈ ks, k = 0 ∨ 4 ≤ k.toNat) → exec (.ackAttention v ks) s = .next (s.answered .range []))

/-- ARM PROGRAMME arms the record at the vector with the count of its descriptor as it stands; DISARM PROGRAMME disarms
it and clears remaining, the vector standing. A SID that names no record is refused with RANGE or NOT-FOUND before a
vector outside 0..127 is refused with RANGE (R135, R136, R137). -/
def Obligations.ProgrammesArmAndDisarm : Prop :=
  (∀ (v : BitVec 16) (x : Byte) (status : Status) (s : State), s.link.sending = none → Claims.sidRefusal s v status →
    exec (.armProgramme v x) s = .next (s.answered status []) ∧
    exec (.disarmProgramme v) s = .next (s.answered status [])) ∧
  ∀ (v : BitVec 16) (x : Byte) (i : Slot) (s : State), s.link.sending = none → Claims.sidNames s v i →
    (∀ d : DescriptorId, x.toNat = d.val →
      exec (.armProgramme v x) s = .next ((s.setStation i { s.station i with
        armed := true, vector := d, remaining := (s.descriptor d).count }).answered .ok
          [x, BitVec.ofNat 8 (s.descriptor d).count])) ∧
    (128 ≤ x.toNat → exec (.armProgramme v x) s = .next (s.answered .range [])) ∧
    exec (.disarmProgramme v) s =
      .next ((s.setStation i { s.station i with armed := false, remaining := 0 }).answered .ok [])

/-- The record of a taken entry: its advertised values moved by the adjusts and clamped, and, where the entry carries a
set, the identity set of its shape and the generation one higher (R157, R158, R159). -/
def Claims.afterTake (e : Correction) (r : Station) : Station :=
  { r with
    advertised := ⟨Claims.forcedTiming (r.advertised.timing + e.adjust.timing),
      Claims.forcedPower (r.advertised.power + e.adjust.power),
      Claims.forcedFrequency (r.advertised.frequency + e.adjust.frequency)⟩,
    coefficients := (match e.coefficients with
      | some f => some ⟨f.count, f.main,
          (List.range f.count.toNat).map fun k => if k = f.main then ⟨0x7FFF, 0⟩ else ⟨0, 0⟩⟩
      | none => r.coefficients),
    generation := r.generation + (if e.coefficients.isSome then 1 else 0), correction := .none, reCorrect := false }

/-- The correction block of an entry: slot, SID, the adjusts in 3, 2 and 3 characters, verdict, set (R196, R198). -/
def Claims.correctionField (e : Correction) : List Byte :=
  Claims.two e.slot.val ++ Claims.two e.sid.val ++ Claims.three e.adjust.timing ++ Claims.two e.adjust.power
    ++ Claims.three e.adjust.frequency ++ [Claims.verdictCode e.verdict] ++ Claims.setField e.coefficients

/-- TAKE CORRECTION answers EMPTY on an empty queue. Otherwise it takes the head: its record moves to the taken values
and to NONE, the freed place goes to the head of the Held List, and a set re-correct flag brings one request more, which
finds the queue as the refill left it. It answers the entry's correction block and how many entries remain (R157 to R161,
R198). -/
def Obligations.TakeCorrectionTakesHead : Prop :=
  ∀ s : State, s.link.sending = none →
    (s.queue = [] → exec .takeCorrection s = .next (s.answered .empty [])) ∧
    (∀ e rest, s.queue = e :: rest → s.held = [] → (s.station e.slot).reCorrect = false →
      exec .takeCorrection s = .next (State.answered
        { s.setStation e.slot (Claims.afterTake e (s.station e.slot)) with queue := rest } .ok
        (Claims.correctionField e ++ [BitVec.ofNat 8 rest.length]))) ∧
    (∀ e rest, s.queue = e :: rest → s.held = [] → (s.station e.slot).reCorrect = true → rest.length < 32 →
      exec .takeCorrection s = .next (State.answered
        { s.setStation e.slot { Claims.afterTake e (s.station e.slot) with correction := .queued } with
          queue := rest ++ [Claims.entryOf e.slot (Claims.afterTake e (s.station e.slot))] } .ok
        (Claims.correctionField e ++ [BitVec.ofNat 8 (rest.length + 1)]))) ∧
    (∀ e rest h more, s.queue = e :: rest → s.held = h :: more → h ≠ e.slot →
      (s.station e.slot).reCorrect = false →
      exec .takeCorrection s = .next (State.answered
        { (s.setStation e.slot (Claims.afterTake e (s.station e.slot))).setStation h
            { s.station h with correction := .queued, reCorrect := false } with
          queue := rest ++ [Claims.entryOf h (s.station h)], held := more } .ok
        (Claims.correctionField e ++ [BitVec.ofNat 8 (rest.length + 1)]))) ∧
    (∀ e rest h more, s.queue = e :: rest → s.held = h :: more → h ≠ e.slot →
      (s.station e.slot).reCorrect = true → rest.length = 31 →
      exec .takeCorrection s = .next (State.answered
        { (s.setStation e.slot { Claims.afterTake e (s.station e.slot) with correction := .held }).setStation h
            { s.station h with correction := .queued, reCorrect := false } with
          queue := rest ++ [Claims.entryOf h (s.station h)], held := more ++ [e.slot] } .ok
        (Claims.correctionField e ++ [BitVec.ofNat 8 32])))

/-! ### Requests on probes, maps, channels and descriptors (chapters 3, 6, 7) -/

/-- A probe entry in 20 characters: token, channel, arrival, the three errors, sightings, age (R197). -/
def Claims.probeField (p : Probe) : List Byte :=
  [p.token.extractLsb' 40 8, p.token.extractLsb' 32 8, p.token.extractLsb' 24 8, p.token.extractLsb' 16 8,
    p.token.extractLsb' 8 8, p.token.extractLsb' 0 8, BitVec.ofNat 8 p.channel.val, p.arrival.extractLsb' 24 8,
    p.arrival.extractLsb' 16 8, p.arrival.extractLsb' 8 8, p.arrival.extractLsb' 0 8]
    ++ Claims.offsetField p.errors ++ [BitVec.ofNat 8 p.sightings, BitVec.ofNat 8 p.age]

/-- PROBES answers the count, the position and at most 12 entries from there on, and changes nothing; a position above
15 is refused with RANGE. DISMISS removes the entry that carries the token, the entries after it moving up, and answers
how many remain; with no such entry it is refused with NOT-FOUND (R123, R124). -/
def Obligations.ProbesReportsAndDismissRemoves : Prop :=
  (∀ (position : Byte) (s : State), s.link.sending = none →
    (position.toNat ≤ 15 → exec (.probes position) s = .next (s.answered .ok
      (BitVec.ofNat 8 s.probes.length :: position ::
        ((s.probes.drop position.toNat).take 12).flatMap Claims.probeField))) ∧
    (16 ≤ position.toNat → exec (.probes position) s = .next (s.answered .range []))) ∧
  (∀ (token : Token) (s : State), s.link.sending = none →
    (∀ before p after, s.probes = before ++ p :: after → p.token = token →
      (∀ q ∈ before ++ after, q.token ≠ token) →
      exec (.dismiss token) s = .next (State.answered { s with probes := before ++ after } .ok
        [BitVec.ofNat 8 (before ++ after).length])) ∧
    ((∀ p ∈ s.probes, p.token ≠ token) → exec (.dismiss token) s = .next (s.answered .notFound [])))

/-- MAP OPEN starts a new pending map, discarding any other; a span outside 1..1,048,576 is refused with RANGE. MAP
ABANDON discards any pending map. Both act in every channel state and leave the rest of the channel; a channel outside
0..3 is refused with RANGE (R47, R52). -/
def Obligations.MapOpenAndAbandonReplacePendingMap : Prop :=
  (∀ (ch : Byte) (start stop : Tick) (s : State), s.link.sending = none →
    (∀ c : Channel, ch.toNat = c.val → 1 ≤ (stop - start).toNat → (stop - start).toNat ≤ 1048576 →
      exec (.mapOpen ch start stop) s = .next
        ((s.setMap c { s.map c with pendingMap := .building ⟨start, stop, []⟩ }).answered .ok [])) ∧
    (4 ≤ ch.toNat ∨ stop = start ∨ 1048576 < (stop - start).toNat →
      exec (.mapOpen ch start stop) s = .next (s.answered .range []))) ∧
  (∀ (ch : Byte) (s : State), s.link.sending = none →
    (∀ c : Channel, ch.toNat = c.val →
      exec (.mapAbandon ch) s = .next ((s.setMap c { s.map c with pendingMap := .empty }).answered .ok [])) ∧
    (4 ≤ ch.toNat → exec (.mapAbandon ch) s = .next (s.answered .range [])))

/-- The kind a MAP GRANT names (R196). -/
def Claims.grantKindOf (k : Byte) : Option GrantKind := [GrantKind.data, .maint, .initial][k.toNat]?

/-- MAP GRANT appends the grant to a BUILDING map with room for it, inside the map and after its last grant, and answers
how many grants the map now holds. Its refusals come in the order of its checks: RANGE for a field out of range or a SID
that does not agree with the kind, STATE without a BUILDING map, FULL at 48 grants, RANGE outside the map, ORDER before
the last grant's end (R45, R48, R49). -/
def Obligations.MapGrantAppendsOrRefuses : Prop :=
  (∀ (ch k : Byte) (c : Channel) (start : Tick) (length sid : BitVec 16) (kind : GrantKind) (v : Sid) (m : BurstMap)
    (s : State), s.link.sending = none → ch.toNat = c.val → Claims.grantKindOf k = some kind → length ≠ 0 →
    sid.toNat = v.val → v.val ≤ 4094 → (v = 0 ↔ kind = .initial) → (s.map c).pendingMap = .building m →
    m.grants.length < 48 →
    (start - m.start).toNat + length.toNat ≤ (m.stop - m.start).toNat →
    (∀ g, m.grants.getLast? = some g →
      (g.start - m.start).toNat + g.length.toNat ≤ (start - m.start).toNat) →
    exec (.mapGrant ch start length sid k) s = .next
      ((s.setMap c { s.map c with pendingMap := .building { m with grants := m.grants ++ [⟨start, length, v, kind⟩] }
        }).answered .ok [BitVec.ofNat 8 (m.grants.length + 1)])) ∧
  (∀ (ch k : Byte) (start : Tick) (length sid : BitVec 16) (s : State), s.link.sending = none →
    (4 ≤ ch.toNat ∨ length = 0 ∨ 4095 ≤ sid.toNat ∨ 3 ≤ k.toNat ∨ (sid = 0 ∧ k ≠ 2) ∨ (sid ≠ 0 ∧ k = 2) →
      exec (.mapGrant ch start length sid k) s = .next (s.answered .range [])) ∧
    (∀ c : Channel, ch.toNat = c.val → length ≠ 0 → sid.toNat ≤ 4094 → k.toNat ≤ 2 → (sid = 0 ↔ k = 2) →
      ((∀ m, (s.map c).pendingMap ≠ .building m) →
        exec (.mapGrant ch start length sid k) s = .next (s.answered .state [])) ∧
      (∀ m, (s.map c).pendingMap = .building m →
        (48 ≤ m.grants.length → exec (.mapGrant ch start length sid k) s = .next (s.answered .full [])) ∧
        (m.grants.length < 48 → (m.stop - m.start).toNat < (start - m.start).toNat + length.toNat →
          exec (.mapGrant ch start length sid k) s = .next (s.answered .range [])) ∧
        (∀ g, m.grants.length < 48 → (start - m.start).toNat + length.toNat ≤ (m.stop - m.start).toNat →
          m.grants.getLast? = some g → (start - m.start).toNat < (g.start - m.start).toNat + g.length.toNat →
          exec (.mapGrant ch start length sid k) s = .next (s.answered .order [])))))

/-- MAP CLOSE makes a BUILDING map READY on a RUNNING or OFF channel, where its start passes the channel's schedule and
lies at most 2^30 ticks ahead; on a STARVED channel it promotes the map at once, and where no window is open and its first
grant's window is due, that opens at once too. Its refusals come in the order of its checks (R36, R50, R51, R53). -/
def Obligations.MapCloseReadiesOrPromotes : Prop :=
  (∀ (ch : Byte) (s : State), s.link.sending = none → 4 ≤ ch.toNat →
    exec (.mapClose ch) s = .next (s.answered .range [])) ∧
  ∀ (ch : Byte) (c : Channel) (m : BurstMap) (s : State), s.link.sending = none → ch.toNat = c.val →
    ((∀ m', (s.map c).pendingMap ≠ .building m') → exec (.mapClose ch) s = .next (s.answered .state [])) ∧
    ((s.map c).pendingMap = .building m →
      (∀ a, (s.map c).state = .running → (s.map c).active = some a → Claims.before m.start a.stop →
        exec (.mapClose ch) s = .next (s.answered .overlap [])) ∧
      ((s.map c).state ≠ .running → Claims.before m.start s.counter →
        exec (.mapClose ch) s = .next (s.answered .late [])) ∧
      (∀ a, (((s.map c).state = .running ∧ (s.map c).active = some a ∧ ¬ Claims.before m.start a.stop) ∨
          ((s.map c).state ≠ .running ∧ ¬ Claims.before m.start s.counter)) →
        (2 ^ 30 < (m.start - s.counter).toNat → exec (.mapClose ch) s = .next (s.answered .range [])) ∧
        ((m.start - s.counter).toNat ≤ 2 ^ 30 →
          ((s.map c).state ≠ .starved → exec (.mapClose ch) s = .next
            ((s.setMap c { s.map c with pendingMap := .ready m }).answered .ok
              [if (s.map c).state = .running then 2 else 0, 2])) ∧
          ((s.map c).state = .starved →
            exec (.mapClose ch) s = .next ((Claims.promoted c m s).answered .ok [2, 0])))))

/-- CHANNEL ON is refused with BUSY while a load is pending and with STATE unless the channel is OFF; otherwise the
channel becomes STARVED, a READY map too far away or already past is discarded, and one within 2^30 ticks is promoted, its
first window opening at once where it is due and no window is open (R36, R53, R56). -/
def Obligations.ChannelOnStarvesOrPromotes : Prop :=
  ∀ (ch : Byte) (c : Channel) (s : State), s.link.sending = none → ch.toNat = c.val →
    (s.loadPending = true → exec (.channelOn ch) s = .next (s.answered .busy [])) ∧
    (s.loadPending = false → (s.map c).state ≠ .off → exec (.channelOn ch) s = .next (s.answered .state [])) ∧
    (s.loadPending = false → (s.map c).state = .off →
      ((∀ m, (s.map c).pendingMap ≠ .ready m) → exec (.channelOn ch) s = .next
        ((s.setMap c { s.map c with state := .starved }).answered .ok [1, 0])) ∧
      (∀ m, (s.map c).pendingMap = .ready m → 2 ^ 30 < (m.start - s.counter).toNat → exec (.channelOn ch) s = .next
        ((s.setMap c { s.map c with state := .starved, pendingMap := .empty }).answered .ok [1, 1])) ∧
      (∀ m, (s.map c).pendingMap = .ready m → (m.start - s.counter).toNat ≤ 2 ^ 30 →
        exec (.channelOn ch) s = .next ((Claims.promoted c m s).answered .ok [2, 0])))

/-- CHANNEL OFF resets the channel: maps, time points and burst context take their reset values. With no unicast burst
in progress that is all; that the context takes all its reset values also where the sequencer is CLOSED with no window
is the model's choice (log entry 21). A unicast burst in progress, WAITING, LIVE or in GRACE, gives its record and its
engine up, whether its engine item names an engine, waits for one or is none: no miss is counted, the engine goes to
the first waiting request or becomes IDLE, a request of its own is withdrawn, the record is unbound, a RETIRING one
becoming FREE, and the trailer goes out ABANDONED where the header was sent (R20, R35, R57, R62, R69, R84, R91). -/
def Obligations.ChannelOffResetsChannel : Prop :=
  ∀ (ch : Byte) (c : Channel) (s : State), s.link.sending = none → ch.toNat = c.val →
    let off (u : State) : State := ((u.setMap c ⟨.off, none, none, .empty⟩).setPoint c
      ⟨none, none, none, none⟩).setBurst c Burst.reset
    ((∀ w, (s.burst c).window = some w → w.kind ≠ .unicast ∨ (s.burst c).state = .closed ∨
        (s.burst c).state = .opened) → exec (.channelOff ch) s = .next ((off s).answered .ok [])) ∧
    (∀ w i, (s.burst c).window = some w → w.kind = .unicast →
      ((s.burst c).state = .waiting ∨ (s.burst c).state = .live ∨ (s.burst c).state = .grace) →
      (s.burst c).slot = some i →
      exec (.channelOff ch) s = .next
        ((off (Claims.trailer c .abandoned (Claims.givenUp c i s))).answered .ok []))

/-- The fields of a descriptor block lie in their ranges (R129 checks 2 to 4, R197). -/
def Claims.blockInRange (b : DescriptorBlock) : Prop :=
  b.flags.toNat < 16 ∧ b.mask.toNat < 16 ∧ 1 ≤ b.count.toNat ∧ b.timingThreshold.toNat ≤ 4095 ∧
  b.powerThreshold.toNat ≤ 63 ∧ b.frequencyThreshold.toNat ≤ 4095 ∧ b.passes.toNat ≤ 15 ∧
  2 ≤ b.coarseShift.toNat ∧ b.coarseShift.toNat ≤ b.fineShift.toNat ∧ b.fineShift.toNat ≤ 12

/-- The descriptor block a descriptor reads as (R197). -/
def Claims.blockOf (d : Descriptor) : List Byte :=
  [BitVec.ofNat 8 ((if d.mode = .repeating then 1 else 0) + (if d.noticeOnRepeat then 2 else 0) +
      (if d.chain then 4 else 0) + (if d.exportSet then 8 else 0)),
    BitVec.ofNat 8 d.count,
    BitVec.ofNat 8 ((if d.mask.timing then 1 else 0) + (if d.mask.power then 2 else 0) +
      (if d.mask.frequency then 4 else 0) + (if d.mask.coefficients then 8 else 0))]
    ++ Claims.two d.timingThreshold ++ [BitVec.ofNat 8 d.powerThreshold] ++ Claims.two d.frequencyThreshold
    ++ [BitVec.ofNat 8 d.passes, BitVec.ofNat 8 d.coarseShift, BitVec.ofNat 8 d.fineShift]

/-- READ DESCRIPTOR answers the index and every field of the descriptor as it stands, and changes nothing; after part
reset every descriptor reads as the empty one. SET DESCRIPTOR replaces every field together and answers the index. An
index outside 0..127, or a field out of range, is refused with RANGE (R128, R129, R131). -/
def Obligations.DescriptorsAreReadAndReplaced : Prop :=
  (∀ (x : Byte) (s : State), s.link.sending = none →
    (∀ d : DescriptorId, x.toNat = d.val →
      exec (.readDescriptor x) s = .next (s.answered .ok (x :: Claims.blockOf (s.descriptor d)))) ∧
    (128 ≤ x.toNat → exec (.readDescriptor x) s = .next (s.answered .range [])) ∧
    (∀ straps d, (State.resetWith straps).descriptor d = Descriptor.empty)) ∧
  (∀ (x : Byte) (b : DescriptorBlock) (s : State), s.link.sending = none →
    (∀ d : DescriptorId, x.toNat = d.val → Claims.blockInRange b →
      exec (.setDescriptor x b) s = .next ((s.setDescriptor d
        { mode := if b.flags.getLsbD 0 then .repeating else .once, count := b.count.toNat,
          noticeOnRepeat := b.flags.getLsbD 1, chain := b.flags.getLsbD 2,
          mask := ⟨b.mask.getLsbD 0, b.mask.getLsbD 1, b.mask.getLsbD 2, b.mask.getLsbD 3⟩,
          timingThreshold := b.timingThreshold.toNat, powerThreshold := b.powerThreshold.toNat,
          frequencyThreshold := b.frequencyThreshold.toNat, passes := b.passes.toNat,
          coarseShift := b.coarseShift.toNat, fineShift := b.fineShift.toNat,
          exportSet := b.flags.getLsbD 3 }).answered .ok [x])) ∧
    (128 ≤ x.toNat ∨ ¬ Claims.blockInRange b → exec (.setDescriptor x b) s = .next (s.answered .range [])))

/-! ### The wire, and what every command keeps -/

/-- The request a well-formed command spells decodes to that command, with every operand (R195, R196, R197, R198,
R199). -/
def Obligations.RequestsDecodeAsEncoded : Prop :=
  ∀ (i : Instr) (code : Byte) (body : List Byte), i.wellFormed = true → encodeRequest i = some (code, body) →
    decodeRequest code body = .ok i ∧ body.length ≤ 250

/-- A request row and the data characters of its frame do the same to a selected part: run one after another, code,
length, body and checksum leave the part as the row leaves it (R183, R184, R195; the rows as commands, log entry 2). -/
def Obligations.RequestRowIsItsCharacters : Prop :=
  ∀ (i : Instr) (code : Byte) (body : List Byte) (rest : List Instr) (s : State), i.wellFormed = true →
    encodeRequest i = some (code, body) → s.link.receiver = .awaitCode →
    Host.Core.run Sys2Proof.core (requestFrame code body).length
        { s with pending := (requestFrame code body).map Instr.dataCharacter ++ rest } =
      exec i { s with pending := rest }

/-- Every step keeps the fields of the station records, the descriptors, the engines, the clip counts, the correction and
probe entries and the two settings in their ranges, the misses of a record in step with its state and its programme, and
the Probe List at 16 entries with distinct tokens (R1, R4, R6, R9, R10, R34, R70, R86, R114, R116, R128, R135, R152, R167). -/
def Obligations.StepKeepsRanges : Prop :=
  ∀ s t : State, s.InRange → step s = .next t → t.InRange

/-- Every step keeps the SID Map, the Correction Queue and the Held List in agreement with the station records (R2, R11,
R13, R150). -/
def Obligations.StepKeepsDirectoryAndCorrections : Prop :=
  ∀ s t : State, s.RecordsAgree → step s = .next t → t.RecordsAgree

/-- Every step keeps each channel's maps, state and time points in agreement: maps stay valid, an active map stands
exactly while RUNNING with its end as map end point, and a waiting opening point is the next grant's (R35, R36, R40,
R45, R46, R54). -/
def Obligations.StepKeepsSchedule : Prop :=
  ∀ s t : State, s.ScheduleAgrees → step s = .next t → t.ScheduleAgrees

/-- Every step keeps the holders in agreement. A record is held by channel n burst exactly when it is the bound slot of the
burst in progress there, and by engine m settling exactly when that engine settles for it; a burst names an engine exactly
when that engine is LIVE for its channel, with the same slot and grant kind; a burst waits for an engine exactly when its
one request stands in the waiting order, and requests wait only while every engine is LIVE; each attention count is the
number of records that hold its kind. That the SID Map and the corrections agree with the records is a statement of its
own, and a premise here (R12, R15, R16, R17, R35, R62, R68, R87, R90, R93). -/
def Obligations.StepKeepsHolders : Prop :=
  ∀ s t : State, s.RecordsAgree → s.HoldersAgree → step s = .next t → t.HoldersAgree

/-- After part reset every field is in range, and the directory, the corrections, the schedule and the holders agree. -/
def Obligations.ResetStateAgrees : Prop :=
  State.reset.InRange ∧ State.reset.RecordsAgree ∧ State.reset.ScheduleAgrees ∧ State.reset.HoldersAgree
end

