-- ==== Sys2Proof/Laws/Arith.lean ====
section
/-! SUPPORT. Clamping and rounding: the bounds of a clamped value, and the ranges of measured and moved values. -/

namespace Sys2Proof.Machine

theorem clamp_ge (lo hi x : Int) (h : lo ≤ hi) : lo ≤ clamp lo hi x := by unfold clamp; split <;> (try split) <;> omega
theorem clamp_le (lo hi x : Int) (h : lo ≤ hi) : clamp lo hi x ≤ hi := by unfold clamp; split <;> (try split) <;> omega
theorem clamp_id (lo hi x : Int) (h1 : lo ≤ x) (h2 : x ≤ hi) : clamp lo hi x = x := by
  unfold clamp; split <;> (try split) <;> omega

theorem clampTiming_range (x : Int) : -1048576 ≤ clampTiming x ∧ clampTiming x ≤ 1048575 :=
  ⟨clamp_ge _ _ _ (by decide), clamp_le _ _ _ (by decide)⟩
theorem clampPower_range (x : Int) : -256 ≤ clampPower x ∧ clampPower x ≤ 255 :=
  ⟨clamp_ge _ _ _ (by decide), clamp_le _ _ _ (by decide)⟩
theorem clampFrequency_range (x : Int) : -32768 ≤ clampFrequency x ∧ clampFrequency x ≤ 32767 :=
  ⟨clamp_ge _ _ _ (by decide), clamp_le _ _ _ (by decide)⟩
theorem limitPart_range (x : Int) : -32768 ≤ limitPart x ∧ limitPart x ≤ 32767 :=
  ⟨clamp_ge _ _ _ (by decide), clamp_le _ _ _ (by decide)⟩

/-- A part is kept exactly when it does not exceed its range. -/
theorem limitPart_eq (x : Int) : limitPart x = x ↔ exceedsPart x = false := by
  unfold limitPart clamp exceedsPart
  split
  · simp; omega
  · split <;> simp <;> omega

theorem Offsets.clamped_inRange (o : Offsets) : o.clamped.InRange :=
  ⟨clampTiming_range _, clampPower_range _, clampFrequency_range _⟩

theorem Offsets.zero_inRange : Offsets.zero.InRange := by constructor <;> decide

theorem timingError_range (c : Capture) (t : Tick) : -1048576 ≤ timingError c t ∧ timingError c t ≤ 1048575 :=
  clampTiming_range _

theorem timingInRange_iff (x : Int) : timingInRange x = true ↔ -1048576 ≤ x ∧ x ≤ 1048575 := by
  simp [timingInRange]
theorem powerInRange_iff (x : Int) : powerInRange x = true ↔ -256 ≤ x ∧ x ≤ 255 := by simp [powerInRange]

theorem measure_inRange (b : Burst) (w : Window) (p f : Int) : (measure b w p f).InRange := by
  refine ⟨?_, clampPower_range _, clampFrequency_range _⟩
  unfold measure
  dsimp only
  split
  · exact timingError_range _ _
  · decide

/-- Rounding: `roundShift x n` is the nearest integer to x / 2^n, halves to the larger (R97). -/
theorem roundShift_bounds (x : Int) (n : Nat) :
    2 * x - 2 ^ n < 2 ^ (n + 1) * roundShift x n ∧ 2 ^ (n + 1) * roundShift x n ≤ 2 * x + 2 ^ n := by
  unfold roundShift
  have hp : (0 : Int) < 2 ^ (n + 1) := by positivity
  have h := Int.emod_add_mul_ediv (2 * x + 2 ^ n) (2 ^ (n + 1))
  have h1 := Int.emod_nonneg (2 * x + 2 ^ n) hp.ne'
  have h2 := Int.emod_lt_of_pos (2 * x + 2 ^ n) hp
  have e : (2 : Int) ^ (n + 1) = 2 * 2 ^ n := by ring
  constructor <;> omega

/-! ### Coefficient sets -/

theorem setValid_none : SetValid none := by intro x h; cases h

theorem setValid_some {x : CoefficientSet} (h : x.valid = true) : SetValid (some x) := by
  intro y e; cases e; exact h

theorem identity_valid (count : TapCount) (main : Nat) (h : main < count.toNat) :
    (CoefficientSet.identity count main).valid = true := by
  simp [CoefficientSet.valid, CoefficientSet.identity, h]

theorem whenAbsent_valid : CoefficientSet.whenAbsent.valid = true := by decide

theorem getD_valid {c : Option CoefficientSet} (h : SetValid c) : (c.getD .whenAbsent).valid = true := by
  cases c with
  | none => exact whenAbsent_valid
  | some x => exact h x rfl

theorem tapCountOf_toNat (code : BitVec 2) : (tapCountOf code).toNat = tapsOfCode code := by
  revert code; decide

theorem readCoefficientSet_valid (f : CoefficientField) (hf : f.wellFormed = true) (x : Option CoefficientSet)
    (h : readCoefficientSet f = some x) : SetValid x := by
  cases f with
  | absent low =>
    simp only [readCoefficientSet] at h
    split at h
    · cases h; exact setValid_none
    · cases h
  | present code reserved main taps =>
    simp only [readCoefficientSet] at h
    split at h
    · next hc =>
      cases h
      refine setValid_some ?_
      simp only [CoefficientField.wellFormed, decide_eq_true_eq] at hf
      simp only [Bool.and_eq_true, decide_eq_true_eq] at hc
      simp [CoefficientSet.valid, tapCountOf_toNat, hf]
      have := hc.2
      rw [tapCountOf_toNat] at this
      exact this
    · cases h

end Sys2Proof.Machine
end

