-- ==== Sys2Proof/Laws/State.lean ====
section
/-! SUPPORT. The small lemmas of reading and writing the state: what each writer leaves in each field, and what each
reader gives after each writer. -/

namespace Sys2Proof.Machine

variable (s : State)

/-! ### setStation -/

theorem station_setStation (i j : Slot) (x : Station) : (s.setStation i x).station j = if i = j then x else s.station j := by
  simp [State.station, State.setStation, Vector.getElem_set, Fin.ext_iff]

@[simp] theorem station_setStation_same (i : Slot) (x : Station) : (s.setStation i x).station i = x := by simp [station_setStation]

theorem station_setStation_ne (i j : Slot) (x : Station) (h : i ≠ j) : (s.setStation i x).station j = s.station j := by simp [station_setStation, h]

@[simp] theorem setStation_sidMap (i : Slot) (x : Station) : (s.setStation i x).sidMap = s.sidMap := rfl
@[simp] theorem setStation_counts (i : Slot) (x : Station) : (s.setStation i x).counts = s.counts := rfl
@[simp] theorem setStation_counter (i : Slot) (x : Station) : (s.setStation i x).counter = s.counter := rfl
@[simp] theorem setStation_loadPending (i : Slot) (x : Station) : (s.setStation i x).loadPending = s.loadPending := rfl
@[simp] theorem setStation_pendingLoad (i : Slot) (x : Station) : (s.setStation i x).pendingLoad = s.pendingLoad := rfl
@[simp] theorem setStation_windowLead (i : Slot) (x : Station) : (s.setStation i x).windowLead = s.windowLead := rfl
@[simp] theorem setStation_probeLifetime (i : Slot) (x : Station) : (s.setStation i x).probeLifetime = s.probeLifetime := rfl
@[simp] theorem setStation_points (i : Slot) (x : Station) : (s.setStation i x).points = s.points := rfl
@[simp] theorem setStation_maps (i : Slot) (x : Station) : (s.setStation i x).maps = s.maps := rfl
@[simp] theorem setStation_bursts (i : Slot) (x : Station) : (s.setStation i x).bursts = s.bursts := rfl
@[simp] theorem setStation_symbolOut (i : Slot) (x : Station) : (s.setStation i x).symbolOut = s.symbolOut := rfl
@[simp] theorem setStation_engines (i : Slot) (x : Station) : (s.setStation i x).engines = s.engines := rfl
@[simp] theorem setStation_waiting (i : Slot) (x : Station) : (s.setStation i x).waiting = s.waiting := rfl
@[simp] theorem setStation_descriptors (i : Slot) (x : Station) : (s.setStation i x).descriptors = s.descriptors := rfl
@[simp] theorem setStation_queue (i : Slot) (x : Station) : (s.setStation i x).queue = s.queue := rfl
@[simp] theorem setStation_held (i : Slot) (x : Station) : (s.setStation i x).held = s.held := rfl
@[simp] theorem setStation_probes (i : Slot) (x : Station) : (s.setStation i x).probes = s.probes := rfl
@[simp] theorem setStation_probeOverflow (i : Slot) (x : Station) : (s.setStation i x).probeOverflow = s.probeOverflow := rfl
@[simp] theorem setStation_link (i : Slot) (x : Station) : (s.setStation i x).link = s.link := rfl
@[simp] theorem setStation_choices (i : Slot) (x : Station) : (s.setStation i x).choices = s.choices := rfl
@[simp] theorem setStation_pending (i : Slot) (x : Station) : (s.setStation i x).pending = s.pending := rfl
@[simp] theorem setStation_sidEntry (i : Slot) (x : Station) (j : Sid) : (s.setStation i x).sidEntry j = s.sidEntry j := rfl
@[simp] theorem setStation_point (i : Slot) (x : Station) (j : Channel) : (s.setStation i x).point j = s.point j := rfl
@[simp] theorem setStation_map (i : Slot) (x : Station) (j : Channel) : (s.setStation i x).map j = s.map j := rfl
@[simp] theorem setStation_burst (i : Slot) (x : Station) (j : Channel) : (s.setStation i x).burst j = s.burst j := rfl
@[simp] theorem setStation_engine (i : Slot) (x : Station) (j : EngineId) : (s.setStation i x).engine j = s.engine j := rfl
@[simp] theorem setStation_descriptor (i : Slot) (x : Station) (j : DescriptorId) : (s.setStation i x).descriptor j = s.descriptor j := rfl
@[simp] theorem setStation_emitted (i : Slot) (x : Station) (j : Channel) : (s.setStation i x).emitted j = s.emitted j := rfl

/-! ### setSidEntry -/

theorem sidEntry_setSidEntry (i j : Sid) (x : Option Slot) : (s.setSidEntry i x).sidEntry j = if i = j then x else s.sidEntry j := by
  simp [State.sidEntry, State.setSidEntry, Vector.getElem_set, Fin.ext_iff]

@[simp] theorem sidEntry_setSidEntry_same (i : Sid) (x : Option Slot) : (s.setSidEntry i x).sidEntry i = x := by simp [sidEntry_setSidEntry]

theorem sidEntry_setSidEntry_ne (i j : Sid) (x : Option Slot) (h : i ≠ j) : (s.setSidEntry i x).sidEntry j = s.sidEntry j := by simp [sidEntry_setSidEntry, h]

@[simp] theorem setSidEntry_stations (i : Sid) (x : Option Slot) : (s.setSidEntry i x).stations = s.stations := rfl
@[simp] theorem setSidEntry_counts (i : Sid) (x : Option Slot) : (s.setSidEntry i x).counts = s.counts := rfl
@[simp] theorem setSidEntry_counter (i : Sid) (x : Option Slot) : (s.setSidEntry i x).counter = s.counter := rfl
@[simp] theorem setSidEntry_loadPending (i : Sid) (x : Option Slot) : (s.setSidEntry i x).loadPending = s.loadPending := rfl
@[simp] theorem setSidEntry_pendingLoad (i : Sid) (x : Option Slot) : (s.setSidEntry i x).pendingLoad = s.pendingLoad := rfl
@[simp] theorem setSidEntry_windowLead (i : Sid) (x : Option Slot) : (s.setSidEntry i x).windowLead = s.windowLead := rfl
@[simp] theorem setSidEntry_probeLifetime (i : Sid) (x : Option Slot) : (s.setSidEntry i x).probeLifetime = s.probeLifetime := rfl
@[simp] theorem setSidEntry_points (i : Sid) (x : Option Slot) : (s.setSidEntry i x).points = s.points := rfl
@[simp] theorem setSidEntry_maps (i : Sid) (x : Option Slot) : (s.setSidEntry i x).maps = s.maps := rfl
@[simp] theorem setSidEntry_bursts (i : Sid) (x : Option Slot) : (s.setSidEntry i x).bursts = s.bursts := rfl
@[simp] theorem setSidEntry_symbolOut (i : Sid) (x : Option Slot) : (s.setSidEntry i x).symbolOut = s.symbolOut := rfl
@[simp] theorem setSidEntry_engines (i : Sid) (x : Option Slot) : (s.setSidEntry i x).engines = s.engines := rfl
@[simp] theorem setSidEntry_waiting (i : Sid) (x : Option Slot) : (s.setSidEntry i x).waiting = s.waiting := rfl
@[simp] theorem setSidEntry_descriptors (i : Sid) (x : Option Slot) : (s.setSidEntry i x).descriptors = s.descriptors := rfl
@[simp] theorem setSidEntry_queue (i : Sid) (x : Option Slot) : (s.setSidEntry i x).queue = s.queue := rfl
@[simp] theorem setSidEntry_held (i : Sid) (x : Option Slot) : (s.setSidEntry i x).held = s.held := rfl
@[simp] theorem setSidEntry_probes (i : Sid) (x : Option Slot) : (s.setSidEntry i x).probes = s.probes := rfl
@[simp] theorem setSidEntry_probeOverflow (i : Sid) (x : Option Slot) : (s.setSidEntry i x).probeOverflow = s.probeOverflow := rfl
@[simp] theorem setSidEntry_link (i : Sid) (x : Option Slot) : (s.setSidEntry i x).link = s.link := rfl
@[simp] theorem setSidEntry_choices (i : Sid) (x : Option Slot) : (s.setSidEntry i x).choices = s.choices := rfl
@[simp] theorem setSidEntry_pending (i : Sid) (x : Option Slot) : (s.setSidEntry i x).pending = s.pending := rfl
@[simp] theorem setSidEntry_station (i : Sid) (x : Option Slot) (j : Slot) : (s.setSidEntry i x).station j = s.station j := rfl
@[simp] theorem setSidEntry_point (i : Sid) (x : Option Slot) (j : Channel) : (s.setSidEntry i x).point j = s.point j := rfl
@[simp] theorem setSidEntry_map (i : Sid) (x : Option Slot) (j : Channel) : (s.setSidEntry i x).map j = s.map j := rfl
@[simp] theorem setSidEntry_burst (i : Sid) (x : Option Slot) (j : Channel) : (s.setSidEntry i x).burst j = s.burst j := rfl
@[simp] theorem setSidEntry_engine (i : Sid) (x : Option Slot) (j : EngineId) : (s.setSidEntry i x).engine j = s.engine j := rfl
@[simp] theorem setSidEntry_descriptor (i : Sid) (x : Option Slot) (j : DescriptorId) : (s.setSidEntry i x).descriptor j = s.descriptor j := rfl
@[simp] theorem setSidEntry_emitted (i : Sid) (x : Option Slot) (j : Channel) : (s.setSidEntry i x).emitted j = s.emitted j := rfl

/-! ### setPoint -/

theorem point_setPoint (i j : Channel) (x : TimePoints) : (s.setPoint i x).point j = if i = j then x else s.point j := by
  simp [State.point, State.setPoint, Vector.getElem_set, Fin.ext_iff]

@[simp] theorem point_setPoint_same (i : Channel) (x : TimePoints) : (s.setPoint i x).point i = x := by simp [point_setPoint]

theorem point_setPoint_ne (i j : Channel) (x : TimePoints) (h : i ≠ j) : (s.setPoint i x).point j = s.point j := by simp [point_setPoint, h]

@[simp] theorem setPoint_stations (i : Channel) (x : TimePoints) : (s.setPoint i x).stations = s.stations := rfl
@[simp] theorem setPoint_sidMap (i : Channel) (x : TimePoints) : (s.setPoint i x).sidMap = s.sidMap := rfl
@[simp] theorem setPoint_counts (i : Channel) (x : TimePoints) : (s.setPoint i x).counts = s.counts := rfl
@[simp] theorem setPoint_counter (i : Channel) (x : TimePoints) : (s.setPoint i x).counter = s.counter := rfl
@[simp] theorem setPoint_loadPending (i : Channel) (x : TimePoints) : (s.setPoint i x).loadPending = s.loadPending := rfl
@[simp] theorem setPoint_pendingLoad (i : Channel) (x : TimePoints) : (s.setPoint i x).pendingLoad = s.pendingLoad := rfl
@[simp] theorem setPoint_windowLead (i : Channel) (x : TimePoints) : (s.setPoint i x).windowLead = s.windowLead := rfl
@[simp] theorem setPoint_probeLifetime (i : Channel) (x : TimePoints) : (s.setPoint i x).probeLifetime = s.probeLifetime := rfl
@[simp] theorem setPoint_maps (i : Channel) (x : TimePoints) : (s.setPoint i x).maps = s.maps := rfl
@[simp] theorem setPoint_bursts (i : Channel) (x : TimePoints) : (s.setPoint i x).bursts = s.bursts := rfl
@[simp] theorem setPoint_symbolOut (i : Channel) (x : TimePoints) : (s.setPoint i x).symbolOut = s.symbolOut := rfl
@[simp] theorem setPoint_engines (i : Channel) (x : TimePoints) : (s.setPoint i x).engines = s.engines := rfl
@[simp] theorem setPoint_waiting (i : Channel) (x : TimePoints) : (s.setPoint i x).waiting = s.waiting := rfl
@[simp] theorem setPoint_descriptors (i : Channel) (x : TimePoints) : (s.setPoint i x).descriptors = s.descriptors := rfl
@[simp] theorem setPoint_queue (i : Channel) (x : TimePoints) : (s.setPoint i x).queue = s.queue := rfl
@[simp] theorem setPoint_held (i : Channel) (x : TimePoints) : (s.setPoint i x).held = s.held := rfl
@[simp] theorem setPoint_probes (i : Channel) (x : TimePoints) : (s.setPoint i x).probes = s.probes := rfl
@[simp] theorem setPoint_probeOverflow (i : Channel) (x : TimePoints) : (s.setPoint i x).probeOverflow = s.probeOverflow := rfl
@[simp] theorem setPoint_link (i : Channel) (x : TimePoints) : (s.setPoint i x).link = s.link := rfl
@[simp] theorem setPoint_choices (i : Channel) (x : TimePoints) : (s.setPoint i x).choices = s.choices := rfl
@[simp] theorem setPoint_pending (i : Channel) (x : TimePoints) : (s.setPoint i x).pending = s.pending := rfl
@[simp] theorem setPoint_station (i : Channel) (x : TimePoints) (j : Slot) : (s.setPoint i x).station j = s.station j := rfl
@[simp] theorem setPoint_sidEntry (i : Channel) (x : TimePoints) (j : Sid) : (s.setPoint i x).sidEntry j = s.sidEntry j := rfl
@[simp] theorem setPoint_map (i : Channel) (x : TimePoints) (j : Channel) : (s.setPoint i x).map j = s.map j := rfl
@[simp] theorem setPoint_burst (i : Channel) (x : TimePoints) (j : Channel) : (s.setPoint i x).burst j = s.burst j := rfl
@[simp] theorem setPoint_engine (i : Channel) (x : TimePoints) (j : EngineId) : (s.setPoint i x).engine j = s.engine j := rfl
@[simp] theorem setPoint_descriptor (i : Channel) (x : TimePoints) (j : DescriptorId) : (s.setPoint i x).descriptor j = s.descriptor j := rfl
@[simp] theorem setPoint_emitted (i : Channel) (x : TimePoints) (j : Channel) : (s.setPoint i x).emitted j = s.emitted j := rfl

/-! ### setMap -/

theorem map_setMap (i j : Channel) (x : ChannelMap) : (s.setMap i x).map j = if i = j then x else s.map j := by
  simp [State.map, State.setMap, Vector.getElem_set, Fin.ext_iff]

@[simp] theorem map_setMap_same (i : Channel) (x : ChannelMap) : (s.setMap i x).map i = x := by simp [map_setMap]

theorem map_setMap_ne (i j : Channel) (x : ChannelMap) (h : i ≠ j) : (s.setMap i x).map j = s.map j := by simp [map_setMap, h]

@[simp] theorem setMap_stations (i : Channel) (x : ChannelMap) : (s.setMap i x).stations = s.stations := rfl
@[simp] theorem setMap_sidMap (i : Channel) (x : ChannelMap) : (s.setMap i x).sidMap = s.sidMap := rfl
@[simp] theorem setMap_counts (i : Channel) (x : ChannelMap) : (s.setMap i x).counts = s.counts := rfl
@[simp] theorem setMap_counter (i : Channel) (x : ChannelMap) : (s.setMap i x).counter = s.counter := rfl
@[simp] theorem setMap_loadPending (i : Channel) (x : ChannelMap) : (s.setMap i x).loadPending = s.loadPending := rfl
@[simp] theorem setMap_pendingLoad (i : Channel) (x : ChannelMap) : (s.setMap i x).pendingLoad = s.pendingLoad := rfl
@[simp] theorem setMap_windowLead (i : Channel) (x : ChannelMap) : (s.setMap i x).windowLead = s.windowLead := rfl
@[simp] theorem setMap_probeLifetime (i : Channel) (x : ChannelMap) : (s.setMap i x).probeLifetime = s.probeLifetime := rfl
@[simp] theorem setMap_points (i : Channel) (x : ChannelMap) : (s.setMap i x).points = s.points := rfl
@[simp] theorem setMap_bursts (i : Channel) (x : ChannelMap) : (s.setMap i x).bursts = s.bursts := rfl
@[simp] theorem setMap_symbolOut (i : Channel) (x : ChannelMap) : (s.setMap i x).symbolOut = s.symbolOut := rfl
@[simp] theorem setMap_engines (i : Channel) (x : ChannelMap) : (s.setMap i x).engines = s.engines := rfl
@[simp] theorem setMap_waiting (i : Channel) (x : ChannelMap) : (s.setMap i x).waiting = s.waiting := rfl
@[simp] theorem setMap_descriptors (i : Channel) (x : ChannelMap) : (s.setMap i x).descriptors = s.descriptors := rfl
@[simp] theorem setMap_queue (i : Channel) (x : ChannelMap) : (s.setMap i x).queue = s.queue := rfl
@[simp] theorem setMap_held (i : Channel) (x : ChannelMap) : (s.setMap i x).held = s.held := rfl
@[simp] theorem setMap_probes (i : Channel) (x : ChannelMap) : (s.setMap i x).probes = s.probes := rfl
@[simp] theorem setMap_probeOverflow (i : Channel) (x : ChannelMap) : (s.setMap i x).probeOverflow = s.probeOverflow := rfl
@[simp] theorem setMap_link (i : Channel) (x : ChannelMap) : (s.setMap i x).link = s.link := rfl
@[simp] theorem setMap_choices (i : Channel) (x : ChannelMap) : (s.setMap i x).choices = s.choices := rfl
@[simp] theorem setMap_pending (i : Channel) (x : ChannelMap) : (s.setMap i x).pending = s.pending := rfl
@[simp] theorem setMap_station (i : Channel) (x : ChannelMap) (j : Slot) : (s.setMap i x).station j = s.station j := rfl
@[simp] theorem setMap_sidEntry (i : Channel) (x : ChannelMap) (j : Sid) : (s.setMap i x).sidEntry j = s.sidEntry j := rfl
@[simp] theorem setMap_point (i : Channel) (x : ChannelMap) (j : Channel) : (s.setMap i x).point j = s.point j := rfl
@[simp] theorem setMap_burst (i : Channel) (x : ChannelMap) (j : Channel) : (s.setMap i x).burst j = s.burst j := rfl
@[simp] theorem setMap_engine (i : Channel) (x : ChannelMap) (j : EngineId) : (s.setMap i x).engine j = s.engine j := rfl
@[simp] theorem setMap_descriptor (i : Channel) (x : ChannelMap) (j : DescriptorId) : (s.setMap i x).descriptor j = s.descriptor j := rfl
@[simp] theorem setMap_emitted (i : Channel) (x : ChannelMap) (j : Channel) : (s.setMap i x).emitted j = s.emitted j := rfl

/-! ### setBurst -/

theorem burst_setBurst (i j : Channel) (x : Burst) : (s.setBurst i x).burst j = if i = j then x else s.burst j := by
  simp [State.burst, State.setBurst, Vector.getElem_set, Fin.ext_iff]

@[simp] theorem burst_setBurst_same (i : Channel) (x : Burst) : (s.setBurst i x).burst i = x := by simp [burst_setBurst]

theorem burst_setBurst_ne (i j : Channel) (x : Burst) (h : i ≠ j) : (s.setBurst i x).burst j = s.burst j := by simp [burst_setBurst, h]

@[simp] theorem setBurst_stations (i : Channel) (x : Burst) : (s.setBurst i x).stations = s.stations := rfl
@[simp] theorem setBurst_sidMap (i : Channel) (x : Burst) : (s.setBurst i x).sidMap = s.sidMap := rfl
@[simp] theorem setBurst_counts (i : Channel) (x : Burst) : (s.setBurst i x).counts = s.counts := rfl
@[simp] theorem setBurst_counter (i : Channel) (x : Burst) : (s.setBurst i x).counter = s.counter := rfl
@[simp] theorem setBurst_loadPending (i : Channel) (x : Burst) : (s.setBurst i x).loadPending = s.loadPending := rfl
@[simp] theorem setBurst_pendingLoad (i : Channel) (x : Burst) : (s.setBurst i x).pendingLoad = s.pendingLoad := rfl
@[simp] theorem setBurst_windowLead (i : Channel) (x : Burst) : (s.setBurst i x).windowLead = s.windowLead := rfl
@[simp] theorem setBurst_probeLifetime (i : Channel) (x : Burst) : (s.setBurst i x).probeLifetime = s.probeLifetime := rfl
@[simp] theorem setBurst_points (i : Channel) (x : Burst) : (s.setBurst i x).points = s.points := rfl
@[simp] theorem setBurst_maps (i : Channel) (x : Burst) : (s.setBurst i x).maps = s.maps := rfl
@[simp] theorem setBurst_symbolOut (i : Channel) (x : Burst) : (s.setBurst i x).symbolOut = s.symbolOut := rfl
@[simp] theorem setBurst_engines (i : Channel) (x : Burst) : (s.setBurst i x).engines = s.engines := rfl
@[simp] theorem setBurst_waiting (i : Channel) (x : Burst) : (s.setBurst i x).waiting = s.waiting := rfl
@[simp] theorem setBurst_descriptors (i : Channel) (x : Burst) : (s.setBurst i x).descriptors = s.descriptors := rfl
@[simp] theorem setBurst_queue (i : Channel) (x : Burst) : (s.setBurst i x).queue = s.queue := rfl
@[simp] theorem setBurst_held (i : Channel) (x : Burst) : (s.setBurst i x).held = s.held := rfl
@[simp] theorem setBurst_probes (i : Channel) (x : Burst) : (s.setBurst i x).probes = s.probes := rfl
@[simp] theorem setBurst_probeOverflow (i : Channel) (x : Burst) : (s.setBurst i x).probeOverflow = s.probeOverflow := rfl
@[simp] theorem setBurst_link (i : Channel) (x : Burst) : (s.setBurst i x).link = s.link := rfl
@[simp] theorem setBurst_choices (i : Channel) (x : Burst) : (s.setBurst i x).choices = s.choices := rfl
@[simp] theorem setBurst_pending (i : Channel) (x : Burst) : (s.setBurst i x).pending = s.pending := rfl
@[simp] theorem setBurst_station (i : Channel) (x : Burst) (j : Slot) : (s.setBurst i x).station j = s.station j := rfl
@[simp] theorem setBurst_sidEntry (i : Channel) (x : Burst) (j : Sid) : (s.setBurst i x).sidEntry j = s.sidEntry j := rfl
@[simp] theorem setBurst_point (i : Channel) (x : Burst) (j : Channel) : (s.setBurst i x).point j = s.point j := rfl
@[simp] theorem setBurst_map (i : Channel) (x : Burst) (j : Channel) : (s.setBurst i x).map j = s.map j := rfl
@[simp] theorem setBurst_engine (i : Channel) (x : Burst) (j : EngineId) : (s.setBurst i x).engine j = s.engine j := rfl
@[simp] theorem setBurst_descriptor (i : Channel) (x : Burst) (j : DescriptorId) : (s.setBurst i x).descriptor j = s.descriptor j := rfl
@[simp] theorem setBurst_emitted (i : Channel) (x : Burst) (j : Channel) : (s.setBurst i x).emitted j = s.emitted j := rfl

/-! ### setEngine -/

theorem engine_setEngine (i j : EngineId) (x : Engine) : (s.setEngine i x).engine j = if i = j then x else s.engine j := by
  simp [State.engine, State.setEngine, Vector.getElem_set, Fin.ext_iff]

@[simp] theorem engine_setEngine_same (i : EngineId) (x : Engine) : (s.setEngine i x).engine i = x := by simp [engine_setEngine]

theorem engine_setEngine_ne (i j : EngineId) (x : Engine) (h : i ≠ j) : (s.setEngine i x).engine j = s.engine j := by simp [engine_setEngine, h]

@[simp] theorem setEngine_stations (i : EngineId) (x : Engine) : (s.setEngine i x).stations = s.stations := rfl
@[simp] theorem setEngine_sidMap (i : EngineId) (x : Engine) : (s.setEngine i x).sidMap = s.sidMap := rfl
@[simp] theorem setEngine_counts (i : EngineId) (x : Engine) : (s.setEngine i x).counts = s.counts := rfl
@[simp] theorem setEngine_counter (i : EngineId) (x : Engine) : (s.setEngine i x).counter = s.counter := rfl
@[simp] theorem setEngine_loadPending (i : EngineId) (x : Engine) : (s.setEngine i x).loadPending = s.loadPending := rfl
@[simp] theorem setEngine_pendingLoad (i : EngineId) (x : Engine) : (s.setEngine i x).pendingLoad = s.pendingLoad := rfl
@[simp] theorem setEngine_windowLead (i : EngineId) (x : Engine) : (s.setEngine i x).windowLead = s.windowLead := rfl
@[simp] theorem setEngine_probeLifetime (i : EngineId) (x : Engine) : (s.setEngine i x).probeLifetime = s.probeLifetime := rfl
@[simp] theorem setEngine_points (i : EngineId) (x : Engine) : (s.setEngine i x).points = s.points := rfl
@[simp] theorem setEngine_maps (i : EngineId) (x : Engine) : (s.setEngine i x).maps = s.maps := rfl
@[simp] theorem setEngine_bursts (i : EngineId) (x : Engine) : (s.setEngine i x).bursts = s.bursts := rfl
@[simp] theorem setEngine_symbolOut (i : EngineId) (x : Engine) : (s.setEngine i x).symbolOut = s.symbolOut := rfl
@[simp] theorem setEngine_waiting (i : EngineId) (x : Engine) : (s.setEngine i x).waiting = s.waiting := rfl
@[simp] theorem setEngine_descriptors (i : EngineId) (x : Engine) : (s.setEngine i x).descriptors = s.descriptors := rfl
@[simp] theorem setEngine_queue (i : EngineId) (x : Engine) : (s.setEngine i x).queue = s.queue := rfl
@[simp] theorem setEngine_held (i : EngineId) (x : Engine) : (s.setEngine i x).held = s.held := rfl
@[simp] theorem setEngine_probes (i : EngineId) (x : Engine) : (s.setEngine i x).probes = s.probes := rfl
@[simp] theorem setEngine_probeOverflow (i : EngineId) (x : Engine) : (s.setEngine i x).probeOverflow = s.probeOverflow := rfl
@[simp] theorem setEngine_link (i : EngineId) (x : Engine) : (s.setEngine i x).link = s.link := rfl
@[simp] theorem setEngine_choices (i : EngineId) (x : Engine) : (s.setEngine i x).choices = s.choices := rfl
@[simp] theorem setEngine_pending (i : EngineId) (x : Engine) : (s.setEngine i x).pending = s.pending := rfl
@[simp] theorem setEngine_station (i : EngineId) (x : Engine) (j : Slot) : (s.setEngine i x).station j = s.station j := rfl
@[simp] theorem setEngine_sidEntry (i : EngineId) (x : Engine) (j : Sid) : (s.setEngine i x).sidEntry j = s.sidEntry j := rfl
@[simp] theorem setEngine_point (i : EngineId) (x : Engine) (j : Channel) : (s.setEngine i x).point j = s.point j := rfl
@[simp] theorem setEngine_map (i : EngineId) (x : Engine) (j : Channel) : (s.setEngine i x).map j = s.map j := rfl
@[simp] theorem setEngine_burst (i : EngineId) (x : Engine) (j : Channel) : (s.setEngine i x).burst j = s.burst j := rfl
@[simp] theorem setEngine_descriptor (i : EngineId) (x : Engine) (j : DescriptorId) : (s.setEngine i x).descriptor j = s.descriptor j := rfl
@[simp] theorem setEngine_emitted (i : EngineId) (x : Engine) (j : Channel) : (s.setEngine i x).emitted j = s.emitted j := rfl

/-! ### setDescriptor -/

theorem descriptor_setDescriptor (i j : DescriptorId) (x : Descriptor) : (s.setDescriptor i x).descriptor j = if i = j then x else s.descriptor j := by
  simp [State.descriptor, State.setDescriptor, Vector.getElem_set, Fin.ext_iff]

@[simp] theorem descriptor_setDescriptor_same (i : DescriptorId) (x : Descriptor) : (s.setDescriptor i x).descriptor i = x := by simp [descriptor_setDescriptor]

theorem descriptor_setDescriptor_ne (i j : DescriptorId) (x : Descriptor) (h : i ≠ j) : (s.setDescriptor i x).descriptor j = s.descriptor j := by simp [descriptor_setDescriptor, h]

@[simp] theorem setDescriptor_stations (i : DescriptorId) (x : Descriptor) : (s.setDescriptor i x).stations = s.stations := rfl
@[simp] theorem setDescriptor_sidMap (i : DescriptorId) (x : Descriptor) : (s.setDescriptor i x).sidMap = s.sidMap := rfl
@[simp] theorem setDescriptor_counts (i : DescriptorId) (x : Descriptor) : (s.setDescriptor i x).counts = s.counts := rfl
@[simp] theorem setDescriptor_counter (i : DescriptorId) (x : Descriptor) : (s.setDescriptor i x).counter = s.counter := rfl
@[simp] theorem setDescriptor_loadPending (i : DescriptorId) (x : Descriptor) : (s.setDescriptor i x).loadPending = s.loadPending := rfl
@[simp] theorem setDescriptor_pendingLoad (i : DescriptorId) (x : Descriptor) : (s.setDescriptor i x).pendingLoad = s.pendingLoad := rfl
@[simp] theorem setDescriptor_windowLead (i : DescriptorId) (x : Descriptor) : (s.setDescriptor i x).windowLead = s.windowLead := rfl
@[simp] theorem setDescriptor_probeLifetime (i : DescriptorId) (x : Descriptor) : (s.setDescriptor i x).probeLifetime = s.probeLifetime := rfl
@[simp] theorem setDescriptor_points (i : DescriptorId) (x : Descriptor) : (s.setDescriptor i x).points = s.points := rfl
@[simp] theorem setDescriptor_maps (i : DescriptorId) (x : Descriptor) : (s.setDescriptor i x).maps = s.maps := rfl
@[simp] theorem setDescriptor_bursts (i : DescriptorId) (x : Descriptor) : (s.setDescriptor i x).bursts = s.bursts := rfl
@[simp] theorem setDescriptor_symbolOut (i : DescriptorId) (x : Descriptor) : (s.setDescriptor i x).symbolOut = s.symbolOut := rfl
@[simp] theorem setDescriptor_engines (i : DescriptorId) (x : Descriptor) : (s.setDescriptor i x).engines = s.engines := rfl
@[simp] theorem setDescriptor_waiting (i : DescriptorId) (x : Descriptor) : (s.setDescriptor i x).waiting = s.waiting := rfl
@[simp] theorem setDescriptor_queue (i : DescriptorId) (x : Descriptor) : (s.setDescriptor i x).queue = s.queue := rfl
@[simp] theorem setDescriptor_held (i : DescriptorId) (x : Descriptor) : (s.setDescriptor i x).held = s.held := rfl
@[simp] theorem setDescriptor_probes (i : DescriptorId) (x : Descriptor) : (s.setDescriptor i x).probes = s.probes := rfl
@[simp] theorem setDescriptor_probeOverflow (i : DescriptorId) (x : Descriptor) : (s.setDescriptor i x).probeOverflow = s.probeOverflow := rfl
@[simp] theorem setDescriptor_link (i : DescriptorId) (x : Descriptor) : (s.setDescriptor i x).link = s.link := rfl
@[simp] theorem setDescriptor_choices (i : DescriptorId) (x : Descriptor) : (s.setDescriptor i x).choices = s.choices := rfl
@[simp] theorem setDescriptor_pending (i : DescriptorId) (x : Descriptor) : (s.setDescriptor i x).pending = s.pending := rfl
@[simp] theorem setDescriptor_station (i : DescriptorId) (x : Descriptor) (j : Slot) : (s.setDescriptor i x).station j = s.station j := rfl
@[simp] theorem setDescriptor_sidEntry (i : DescriptorId) (x : Descriptor) (j : Sid) : (s.setDescriptor i x).sidEntry j = s.sidEntry j := rfl
@[simp] theorem setDescriptor_point (i : DescriptorId) (x : Descriptor) (j : Channel) : (s.setDescriptor i x).point j = s.point j := rfl
@[simp] theorem setDescriptor_map (i : DescriptorId) (x : Descriptor) (j : Channel) : (s.setDescriptor i x).map j = s.map j := rfl
@[simp] theorem setDescriptor_burst (i : DescriptorId) (x : Descriptor) (j : Channel) : (s.setDescriptor i x).burst j = s.burst j := rfl
@[simp] theorem setDescriptor_engine (i : DescriptorId) (x : Descriptor) (j : EngineId) : (s.setDescriptor i x).engine j = s.engine j := rfl
@[simp] theorem setDescriptor_emitted (i : DescriptorId) (x : Descriptor) (j : Channel) : (s.setDescriptor i x).emitted j = s.emitted j := rfl

/-! ### emit -/

theorem emitted_emit (c d : Channel) (x : SymbolItem) :
    (s.emit c x).emitted d = if c = d then s.emitted c ++ [x] else s.emitted d := by
  simp [State.emitted, State.emit, Vector.getElem_set, Fin.ext_iff]

@[simp] theorem emitted_emit_same (c : Channel) (x : SymbolItem) : (s.emit c x).emitted c = s.emitted c ++ [x] := by
  simp [emitted_emit]

@[simp] theorem emit_stations (c : Channel) (x : SymbolItem) : (s.emit c x).stations = s.stations := rfl
@[simp] theorem emit_sidMap (c : Channel) (x : SymbolItem) : (s.emit c x).sidMap = s.sidMap := rfl
@[simp] theorem emit_counts (c : Channel) (x : SymbolItem) : (s.emit c x).counts = s.counts := rfl
@[simp] theorem emit_counter (c : Channel) (x : SymbolItem) : (s.emit c x).counter = s.counter := rfl
@[simp] theorem emit_loadPending (c : Channel) (x : SymbolItem) : (s.emit c x).loadPending = s.loadPending := rfl
@[simp] theorem emit_pendingLoad (c : Channel) (x : SymbolItem) : (s.emit c x).pendingLoad = s.pendingLoad := rfl
@[simp] theorem emit_windowLead (c : Channel) (x : SymbolItem) : (s.emit c x).windowLead = s.windowLead := rfl
@[simp] theorem emit_probeLifetime (c : Channel) (x : SymbolItem) : (s.emit c x).probeLifetime = s.probeLifetime := rfl
@[simp] theorem emit_points (c : Channel) (x : SymbolItem) : (s.emit c x).points = s.points := rfl
@[simp] theorem emit_maps (c : Channel) (x : SymbolItem) : (s.emit c x).maps = s.maps := rfl
@[simp] theorem emit_bursts (c : Channel) (x : SymbolItem) : (s.emit c x).bursts = s.bursts := rfl
@[simp] theorem emit_engines (c : Channel) (x : SymbolItem) : (s.emit c x).engines = s.engines := rfl
@[simp] theorem emit_waiting (c : Channel) (x : SymbolItem) : (s.emit c x).waiting = s.waiting := rfl
@[simp] theorem emit_descriptors (c : Channel) (x : SymbolItem) : (s.emit c x).descriptors = s.descriptors := rfl
@[simp] theorem emit_queue (c : Channel) (x : SymbolItem) : (s.emit c x).queue = s.queue := rfl
@[simp] theorem emit_held (c : Channel) (x : SymbolItem) : (s.emit c x).held = s.held := rfl
@[simp] theorem emit_probes (c : Channel) (x : SymbolItem) : (s.emit c x).probes = s.probes := rfl
@[simp] theorem emit_probeOverflow (c : Channel) (x : SymbolItem) : (s.emit c x).probeOverflow = s.probeOverflow := rfl
@[simp] theorem emit_link (c : Channel) (x : SymbolItem) : (s.emit c x).link = s.link := rfl
@[simp] theorem emit_choices (c : Channel) (x : SymbolItem) : (s.emit c x).choices = s.choices := rfl
@[simp] theorem emit_pending (c : Channel) (x : SymbolItem) : (s.emit c x).pending = s.pending := rfl
@[simp] theorem emit_station (c : Channel) (x : SymbolItem) (j : Slot) : (s.emit c x).station j = s.station j := rfl
@[simp] theorem emit_sidEntry (c : Channel) (x : SymbolItem) (j : Sid) : (s.emit c x).sidEntry j = s.sidEntry j := rfl
@[simp] theorem emit_point (c : Channel) (x : SymbolItem) (j : Channel) : (s.emit c x).point j = s.point j := rfl
@[simp] theorem emit_map (c : Channel) (x : SymbolItem) (j : Channel) : (s.emit c x).map j = s.map j := rfl
@[simp] theorem emit_burst (c : Channel) (x : SymbolItem) (j : Channel) : (s.emit c x).burst j = s.burst j := rfl
@[simp] theorem emit_engine (c : Channel) (x : SymbolItem) (j : EngineId) : (s.emit c x).engine j = s.engine j := rfl
@[simp] theorem emit_descriptor (c : Channel) (x : SymbolItem) (j : DescriptorId) : (s.emit c x).descriptor j = s.descriptor j := rfl

/-! ### Readers after an update of another field -/

@[simp] theorem station_with_counts (x : AttentionCounts) (j : Slot) : State.station { s with counts := x } j = s.station j := rfl
@[simp] theorem sidEntry_with_counts (x : AttentionCounts) (j : Sid) : State.sidEntry { s with counts := x } j = s.sidEntry j := rfl
@[simp] theorem point_with_counts (x : AttentionCounts) (j : Channel) : State.point { s with counts := x } j = s.point j := rfl
@[simp] theorem map_with_counts (x : AttentionCounts) (j : Channel) : State.map { s with counts := x } j = s.map j := rfl
@[simp] theorem burst_with_counts (x : AttentionCounts) (j : Channel) : State.burst { s with counts := x } j = s.burst j := rfl
@[simp] theorem engine_with_counts (x : AttentionCounts) (j : EngineId) : State.engine { s with counts := x } j = s.engine j := rfl
@[simp] theorem descriptor_with_counts (x : AttentionCounts) (j : DescriptorId) : State.descriptor { s with counts := x } j = s.descriptor j := rfl
@[simp] theorem emitted_with_counts (x : AttentionCounts) (j : Channel) : State.emitted { s with counts := x } j = s.emitted j := rfl
@[simp] theorem station_with_counter (x : Tick) (j : Slot) : State.station { s with counter := x } j = s.station j := rfl
@[simp] theorem sidEntry_with_counter (x : Tick) (j : Sid) : State.sidEntry { s with counter := x } j = s.sidEntry j := rfl
@[simp] theorem point_with_counter (x : Tick) (j : Channel) : State.point { s with counter := x } j = s.point j := rfl
@[simp] theorem map_with_counter (x : Tick) (j : Channel) : State.map { s with counter := x } j = s.map j := rfl
@[simp] theorem burst_with_counter (x : Tick) (j : Channel) : State.burst { s with counter := x } j = s.burst j := rfl
@[simp] theorem engine_with_counter (x : Tick) (j : EngineId) : State.engine { s with counter := x } j = s.engine j := rfl
@[simp] theorem descriptor_with_counter (x : Tick) (j : DescriptorId) : State.descriptor { s with counter := x } j = s.descriptor j := rfl
@[simp] theorem emitted_with_counter (x : Tick) (j : Channel) : State.emitted { s with counter := x } j = s.emitted j := rfl
@[simp] theorem station_with_loadPending (x : Bool) (j : Slot) : State.station { s with loadPending := x } j = s.station j := rfl
@[simp] theorem sidEntry_with_loadPending (x : Bool) (j : Sid) : State.sidEntry { s with loadPending := x } j = s.sidEntry j := rfl
@[simp] theorem point_with_loadPending (x : Bool) (j : Channel) : State.point { s with loadPending := x } j = s.point j := rfl
@[simp] theorem map_with_loadPending (x : Bool) (j : Channel) : State.map { s with loadPending := x } j = s.map j := rfl
@[simp] theorem burst_with_loadPending (x : Bool) (j : Channel) : State.burst { s with loadPending := x } j = s.burst j := rfl
@[simp] theorem engine_with_loadPending (x : Bool) (j : EngineId) : State.engine { s with loadPending := x } j = s.engine j := rfl
@[simp] theorem descriptor_with_loadPending (x : Bool) (j : DescriptorId) : State.descriptor { s with loadPending := x } j = s.descriptor j := rfl
@[simp] theorem emitted_with_loadPending (x : Bool) (j : Channel) : State.emitted { s with loadPending := x } j = s.emitted j := rfl
@[simp] theorem station_with_pendingLoad (x : Tick) (j : Slot) : State.station { s with pendingLoad := x } j = s.station j := rfl
@[simp] theorem sidEntry_with_pendingLoad (x : Tick) (j : Sid) : State.sidEntry { s with pendingLoad := x } j = s.sidEntry j := rfl
@[simp] theorem point_with_pendingLoad (x : Tick) (j : Channel) : State.point { s with pendingLoad := x } j = s.point j := rfl
@[simp] theorem map_with_pendingLoad (x : Tick) (j : Channel) : State.map { s with pendingLoad := x } j = s.map j := rfl
@[simp] theorem burst_with_pendingLoad (x : Tick) (j : Channel) : State.burst { s with pendingLoad := x } j = s.burst j := rfl
@[simp] theorem engine_with_pendingLoad (x : Tick) (j : EngineId) : State.engine { s with pendingLoad := x } j = s.engine j := rfl
@[simp] theorem descriptor_with_pendingLoad (x : Tick) (j : DescriptorId) : State.descriptor { s with pendingLoad := x } j = s.descriptor j := rfl
@[simp] theorem emitted_with_pendingLoad (x : Tick) (j : Channel) : State.emitted { s with pendingLoad := x } j = s.emitted j := rfl
@[simp] theorem station_with_windowLead (x : Nat) (j : Slot) : State.station { s with windowLead := x } j = s.station j := rfl
@[simp] theorem sidEntry_with_windowLead (x : Nat) (j : Sid) : State.sidEntry { s with windowLead := x } j = s.sidEntry j := rfl
@[simp] theorem point_with_windowLead (x : Nat) (j : Channel) : State.point { s with windowLead := x } j = s.point j := rfl
@[simp] theorem map_with_windowLead (x : Nat) (j : Channel) : State.map { s with windowLead := x } j = s.map j := rfl
@[simp] theorem burst_with_windowLead (x : Nat) (j : Channel) : State.burst { s with windowLead := x } j = s.burst j := rfl
@[simp] theorem engine_with_windowLead (x : Nat) (j : EngineId) : State.engine { s with windowLead := x } j = s.engine j := rfl
@[simp] theorem descriptor_with_windowLead (x : Nat) (j : DescriptorId) : State.descriptor { s with windowLead := x } j = s.descriptor j := rfl
@[simp] theorem emitted_with_windowLead (x : Nat) (j : Channel) : State.emitted { s with windowLead := x } j = s.emitted j := rfl
@[simp] theorem station_with_probeLifetime (x : Nat) (j : Slot) : State.station { s with probeLifetime := x } j = s.station j := rfl
@[simp] theorem sidEntry_with_probeLifetime (x : Nat) (j : Sid) : State.sidEntry { s with probeLifetime := x } j = s.sidEntry j := rfl
@[simp] theorem point_with_probeLifetime (x : Nat) (j : Channel) : State.point { s with probeLifetime := x } j = s.point j := rfl
@[simp] theorem map_with_probeLifetime (x : Nat) (j : Channel) : State.map { s with probeLifetime := x } j = s.map j := rfl
@[simp] theorem burst_with_probeLifetime (x : Nat) (j : Channel) : State.burst { s with probeLifetime := x } j = s.burst j := rfl
@[simp] theorem engine_with_probeLifetime (x : Nat) (j : EngineId) : State.engine { s with probeLifetime := x } j = s.engine j := rfl
@[simp] theorem descriptor_with_probeLifetime (x : Nat) (j : DescriptorId) : State.descriptor { s with probeLifetime := x } j = s.descriptor j := rfl
@[simp] theorem emitted_with_probeLifetime (x : Nat) (j : Channel) : State.emitted { s with probeLifetime := x } j = s.emitted j := rfl
@[simp] theorem station_with_waiting (x : List EngineRequest) (j : Slot) : State.station { s with waiting := x } j = s.station j := rfl
@[simp] theorem sidEntry_with_waiting (x : List EngineRequest) (j : Sid) : State.sidEntry { s with waiting := x } j = s.sidEntry j := rfl
@[simp] theorem point_with_waiting (x : List EngineRequest) (j : Channel) : State.point { s with waiting := x } j = s.point j := rfl
@[simp] theorem map_with_waiting (x : List EngineRequest) (j : Channel) : State.map { s with waiting := x } j = s.map j := rfl
@[simp] theorem burst_with_waiting (x : List EngineRequest) (j : Channel) : State.burst { s with waiting := x } j = s.burst j := rfl
@[simp] theorem engine_with_waiting (x : List EngineRequest) (j : EngineId) : State.engine { s with waiting := x } j = s.engine j := rfl
@[simp] theorem descriptor_with_waiting (x : List EngineRequest) (j : DescriptorId) : State.descriptor { s with waiting := x } j = s.descriptor j := rfl
@[simp] theorem emitted_with_waiting (x : List EngineRequest) (j : Channel) : State.emitted { s with waiting := x } j = s.emitted j := rfl
@[simp] theorem station_with_queue (x : List Correction) (j : Slot) : State.station { s with queue := x } j = s.station j := rfl
@[simp] theorem sidEntry_with_queue (x : List Correction) (j : Sid) : State.sidEntry { s with queue := x } j = s.sidEntry j := rfl
@[simp] theorem point_with_queue (x : List Correction) (j : Channel) : State.point { s with queue := x } j = s.point j := rfl
@[simp] theorem map_with_queue (x : List Correction) (j : Channel) : State.map { s with queue := x } j = s.map j := rfl
@[simp] theorem burst_with_queue (x : List Correction) (j : Channel) : State.burst { s with queue := x } j = s.burst j := rfl
@[simp] theorem engine_with_queue (x : List Correction) (j : EngineId) : State.engine { s with queue := x } j = s.engine j := rfl
@[simp] theorem descriptor_with_queue (x : List Correction) (j : DescriptorId) : State.descriptor { s with queue := x } j = s.descriptor j := rfl
@[simp] theorem emitted_with_queue (x : List Correction) (j : Channel) : State.emitted { s with queue := x } j = s.emitted j := rfl
@[simp] theorem station_with_held (x : List Slot) (j : Slot) : State.station { s with held := x } j = s.station j := rfl
@[simp] theorem sidEntry_with_held (x : List Slot) (j : Sid) : State.sidEntry { s with held := x } j = s.sidEntry j := rfl
@[simp] theorem point_with_held (x : List Slot) (j : Channel) : State.point { s with held := x } j = s.point j := rfl
@[simp] theorem map_with_held (x : List Slot) (j : Channel) : State.map { s with held := x } j = s.map j := rfl
@[simp] theorem burst_with_held (x : List Slot) (j : Channel) : State.burst { s with held := x } j = s.burst j := rfl
@[simp] theorem engine_with_held (x : List Slot) (j : EngineId) : State.engine { s with held := x } j = s.engine j := rfl
@[simp] theorem descriptor_with_held (x : List Slot) (j : DescriptorId) : State.descriptor { s with held := x } j = s.descriptor j := rfl
@[simp] theorem emitted_with_held (x : List Slot) (j : Channel) : State.emitted { s with held := x } j = s.emitted j := rfl
@[simp] theorem station_with_probes (x : List Probe) (j : Slot) : State.station { s with probes := x } j = s.station j := rfl
@[simp] theorem sidEntry_with_probes (x : List Probe) (j : Sid) : State.sidEntry { s with probes := x } j = s.sidEntry j := rfl
@[simp] theorem point_with_probes (x : List Probe) (j : Channel) : State.point { s with probes := x } j = s.point j := rfl
@[simp] theorem map_with_probes (x : List Probe) (j : Channel) : State.map { s with probes := x } j = s.map j := rfl
@[simp] theorem burst_with_probes (x : List Probe) (j : Channel) : State.burst { s with probes := x } j = s.burst j := rfl
@[simp] theorem engine_with_probes (x : List Probe) (j : EngineId) : State.engine { s with probes := x } j = s.engine j := rfl
@[simp] theorem descriptor_with_probes (x : List Probe) (j : DescriptorId) : State.descriptor { s with probes := x } j = s.descriptor j := rfl
@[simp] theorem emitted_with_probes (x : List Probe) (j : Channel) : State.emitted { s with probes := x } j = s.emitted j := rfl
@[simp] theorem station_with_probeOverflow (x : Bool) (j : Slot) : State.station { s with probeOverflow := x } j = s.station j := rfl
@[simp] theorem sidEntry_with_probeOverflow (x : Bool) (j : Sid) : State.sidEntry { s with probeOverflow := x } j = s.sidEntry j := rfl
@[simp] theorem point_with_probeOverflow (x : Bool) (j : Channel) : State.point { s with probeOverflow := x } j = s.point j := rfl
@[simp] theorem map_with_probeOverflow (x : Bool) (j : Channel) : State.map { s with probeOverflow := x } j = s.map j := rfl
@[simp] theorem burst_with_probeOverflow (x : Bool) (j : Channel) : State.burst { s with probeOverflow := x } j = s.burst j := rfl
@[simp] theorem engine_with_probeOverflow (x : Bool) (j : EngineId) : State.engine { s with probeOverflow := x } j = s.engine j := rfl
@[simp] theorem descriptor_with_probeOverflow (x : Bool) (j : DescriptorId) : State.descriptor { s with probeOverflow := x } j = s.descriptor j := rfl
@[simp] theorem emitted_with_probeOverflow (x : Bool) (j : Channel) : State.emitted { s with probeOverflow := x } j = s.emitted j := rfl
@[simp] theorem station_with_link (x : Link) (j : Slot) : State.station { s with link := x } j = s.station j := rfl
@[simp] theorem sidEntry_with_link (x : Link) (j : Sid) : State.sidEntry { s with link := x } j = s.sidEntry j := rfl
@[simp] theorem point_with_link (x : Link) (j : Channel) : State.point { s with link := x } j = s.point j := rfl
@[simp] theorem map_with_link (x : Link) (j : Channel) : State.map { s with link := x } j = s.map j := rfl
@[simp] theorem burst_with_link (x : Link) (j : Channel) : State.burst { s with link := x } j = s.burst j := rfl
@[simp] theorem engine_with_link (x : Link) (j : EngineId) : State.engine { s with link := x } j = s.engine j := rfl
@[simp] theorem descriptor_with_link (x : Link) (j : DescriptorId) : State.descriptor { s with link := x } j = s.descriptor j := rfl
@[simp] theorem emitted_with_link (x : Link) (j : Channel) : State.emitted { s with link := x } j = s.emitted j := rfl
@[simp] theorem station_with_choices (x : Nat) (j : Slot) : State.station { s with choices := x } j = s.station j := rfl
@[simp] theorem sidEntry_with_choices (x : Nat) (j : Sid) : State.sidEntry { s with choices := x } j = s.sidEntry j := rfl
@[simp] theorem point_with_choices (x : Nat) (j : Channel) : State.point { s with choices := x } j = s.point j := rfl
@[simp] theorem map_with_choices (x : Nat) (j : Channel) : State.map { s with choices := x } j = s.map j := rfl
@[simp] theorem burst_with_choices (x : Nat) (j : Channel) : State.burst { s with choices := x } j = s.burst j := rfl
@[simp] theorem engine_with_choices (x : Nat) (j : EngineId) : State.engine { s with choices := x } j = s.engine j := rfl
@[simp] theorem descriptor_with_choices (x : Nat) (j : DescriptorId) : State.descriptor { s with choices := x } j = s.descriptor j := rfl
@[simp] theorem emitted_with_choices (x : Nat) (j : Channel) : State.emitted { s with choices := x } j = s.emitted j := rfl
@[simp] theorem station_with_pending (x : List Instr) (j : Slot) : State.station { s with pending := x } j = s.station j := rfl
@[simp] theorem sidEntry_with_pending (x : List Instr) (j : Sid) : State.sidEntry { s with pending := x } j = s.sidEntry j := rfl
@[simp] theorem point_with_pending (x : List Instr) (j : Channel) : State.point { s with pending := x } j = s.point j := rfl
@[simp] theorem map_with_pending (x : List Instr) (j : Channel) : State.map { s with pending := x } j = s.map j := rfl
@[simp] theorem burst_with_pending (x : List Instr) (j : Channel) : State.burst { s with pending := x } j = s.burst j := rfl
@[simp] theorem engine_with_pending (x : List Instr) (j : EngineId) : State.engine { s with pending := x } j = s.engine j := rfl
@[simp] theorem descriptor_with_pending (x : List Instr) (j : DescriptorId) : State.descriptor { s with pending := x } j = s.descriptor j := rfl
@[simp] theorem emitted_with_pending (x : List Instr) (j : Channel) : State.emitted { s with pending := x } j = s.emitted j := rfl

/-! ### The Host Link's updates -/

@[simp] theorem awaitCode_stations : (s.awaitCode).stations = s.stations := rfl
@[simp] theorem awaitCode_sidMap : (s.awaitCode).sidMap = s.sidMap := rfl
@[simp] theorem awaitCode_counts : (s.awaitCode).counts = s.counts := rfl
@[simp] theorem awaitCode_counter : (s.awaitCode).counter = s.counter := rfl
@[simp] theorem awaitCode_loadPending : (s.awaitCode).loadPending = s.loadPending := rfl
@[simp] theorem awaitCode_pendingLoad : (s.awaitCode).pendingLoad = s.pendingLoad := rfl
@[simp] theorem awaitCode_windowLead : (s.awaitCode).windowLead = s.windowLead := rfl
@[simp] theorem awaitCode_probeLifetime : (s.awaitCode).probeLifetime = s.probeLifetime := rfl
@[simp] theorem awaitCode_points : (s.awaitCode).points = s.points := rfl
@[simp] theorem awaitCode_maps : (s.awaitCode).maps = s.maps := rfl
@[simp] theorem awaitCode_bursts : (s.awaitCode).bursts = s.bursts := rfl
@[simp] theorem awaitCode_symbolOut : (s.awaitCode).symbolOut = s.symbolOut := rfl
@[simp] theorem awaitCode_engines : (s.awaitCode).engines = s.engines := rfl
@[simp] theorem awaitCode_waiting : (s.awaitCode).waiting = s.waiting := rfl
@[simp] theorem awaitCode_descriptors : (s.awaitCode).descriptors = s.descriptors := rfl
@[simp] theorem awaitCode_queue : (s.awaitCode).queue = s.queue := rfl
@[simp] theorem awaitCode_held : (s.awaitCode).held = s.held := rfl
@[simp] theorem awaitCode_probes : (s.awaitCode).probes = s.probes := rfl
@[simp] theorem awaitCode_probeOverflow : (s.awaitCode).probeOverflow = s.probeOverflow := rfl
@[simp] theorem awaitCode_choices : (s.awaitCode).choices = s.choices := rfl
@[simp] theorem awaitCode_pending : (s.awaitCode).pending = s.pending := rfl
@[simp] theorem awaitCode_station (j : Slot) : (s.awaitCode).station j = s.station j := rfl
@[simp] theorem awaitCode_sidEntry (j : Sid) : (s.awaitCode).sidEntry j = s.sidEntry j := rfl
@[simp] theorem awaitCode_point (j : Channel) : (s.awaitCode).point j = s.point j := rfl
@[simp] theorem awaitCode_map (j : Channel) : (s.awaitCode).map j = s.map j := rfl
@[simp] theorem awaitCode_burst (j : Channel) : (s.awaitCode).burst j = s.burst j := rfl
@[simp] theorem awaitCode_engine (j : EngineId) : (s.awaitCode).engine j = s.engine j := rfl
@[simp] theorem awaitCode_descriptor (j : DescriptorId) : (s.awaitCode).descriptor j = s.descriptor j := rfl

@[simp] theorem setOverrun_stations : (s.setOverrun).stations = s.stations := rfl
@[simp] theorem setOverrun_sidMap : (s.setOverrun).sidMap = s.sidMap := rfl
@[simp] theorem setOverrun_counts : (s.setOverrun).counts = s.counts := rfl
@[simp] theorem setOverrun_counter : (s.setOverrun).counter = s.counter := rfl
@[simp] theorem setOverrun_loadPending : (s.setOverrun).loadPending = s.loadPending := rfl
@[simp] theorem setOverrun_pendingLoad : (s.setOverrun).pendingLoad = s.pendingLoad := rfl
@[simp] theorem setOverrun_windowLead : (s.setOverrun).windowLead = s.windowLead := rfl
@[simp] theorem setOverrun_probeLifetime : (s.setOverrun).probeLifetime = s.probeLifetime := rfl
@[simp] theorem setOverrun_points : (s.setOverrun).points = s.points := rfl
@[simp] theorem setOverrun_maps : (s.setOverrun).maps = s.maps := rfl
@[simp] theorem setOverrun_bursts : (s.setOverrun).bursts = s.bursts := rfl
@[simp] theorem setOverrun_symbolOut : (s.setOverrun).symbolOut = s.symbolOut := rfl
@[simp] theorem setOverrun_engines : (s.setOverrun).engines = s.engines := rfl
@[simp] theorem setOverrun_waiting : (s.setOverrun).waiting = s.waiting := rfl
@[simp] theorem setOverrun_descriptors : (s.setOverrun).descriptors = s.descriptors := rfl
@[simp] theorem setOverrun_queue : (s.setOverrun).queue = s.queue := rfl
@[simp] theorem setOverrun_held : (s.setOverrun).held = s.held := rfl
@[simp] theorem setOverrun_probes : (s.setOverrun).probes = s.probes := rfl
@[simp] theorem setOverrun_probeOverflow : (s.setOverrun).probeOverflow = s.probeOverflow := rfl
@[simp] theorem setOverrun_choices : (s.setOverrun).choices = s.choices := rfl
@[simp] theorem setOverrun_pending : (s.setOverrun).pending = s.pending := rfl
@[simp] theorem setOverrun_station (j : Slot) : (s.setOverrun).station j = s.station j := rfl
@[simp] theorem setOverrun_sidEntry (j : Sid) : (s.setOverrun).sidEntry j = s.sidEntry j := rfl
@[simp] theorem setOverrun_point (j : Channel) : (s.setOverrun).point j = s.point j := rfl
@[simp] theorem setOverrun_map (j : Channel) : (s.setOverrun).map j = s.map j := rfl
@[simp] theorem setOverrun_burst (j : Channel) : (s.setOverrun).burst j = s.burst j := rfl
@[simp] theorem setOverrun_engine (j : EngineId) : (s.setOverrun).engine j = s.engine j := rfl
@[simp] theorem setOverrun_descriptor (j : DescriptorId) : (s.setOverrun).descriptor j = s.descriptor j := rfl

@[simp] theorem respond_stations (r : Reply) : (s.respond r).stations = s.stations := rfl
@[simp] theorem respond_sidMap (r : Reply) : (s.respond r).sidMap = s.sidMap := rfl
@[simp] theorem respond_counts (r : Reply) : (s.respond r).counts = s.counts := rfl
@[simp] theorem respond_counter (r : Reply) : (s.respond r).counter = s.counter := rfl
@[simp] theorem respond_loadPending (r : Reply) : (s.respond r).loadPending = s.loadPending := rfl
@[simp] theorem respond_pendingLoad (r : Reply) : (s.respond r).pendingLoad = s.pendingLoad := rfl
@[simp] theorem respond_windowLead (r : Reply) : (s.respond r).windowLead = s.windowLead := rfl
@[simp] theorem respond_probeLifetime (r : Reply) : (s.respond r).probeLifetime = s.probeLifetime := rfl
@[simp] theorem respond_points (r : Reply) : (s.respond r).points = s.points := rfl
@[simp] theorem respond_maps (r : Reply) : (s.respond r).maps = s.maps := rfl
@[simp] theorem respond_bursts (r : Reply) : (s.respond r).bursts = s.bursts := rfl
@[simp] theorem respond_symbolOut (r : Reply) : (s.respond r).symbolOut = s.symbolOut := rfl
@[simp] theorem respond_engines (r : Reply) : (s.respond r).engines = s.engines := rfl
@[simp] theorem respond_waiting (r : Reply) : (s.respond r).waiting = s.waiting := rfl
@[simp] theorem respond_descriptors (r : Reply) : (s.respond r).descriptors = s.descriptors := rfl
@[simp] theorem respond_queue (r : Reply) : (s.respond r).queue = s.queue := rfl
@[simp] theorem respond_held (r : Reply) : (s.respond r).held = s.held := rfl
@[simp] theorem respond_probes (r : Reply) : (s.respond r).probes = s.probes := rfl
@[simp] theorem respond_probeOverflow (r : Reply) : (s.respond r).probeOverflow = s.probeOverflow := rfl
@[simp] theorem respond_choices (r : Reply) : (s.respond r).choices = s.choices := rfl
@[simp] theorem respond_pending (r : Reply) : (s.respond r).pending = s.pending := rfl
@[simp] theorem respond_station (r : Reply) (j : Slot) : (s.respond r).station j = s.station j := rfl
@[simp] theorem respond_sidEntry (r : Reply) (j : Sid) : (s.respond r).sidEntry j = s.sidEntry j := rfl
@[simp] theorem respond_point (r : Reply) (j : Channel) : (s.respond r).point j = s.point j := rfl
@[simp] theorem respond_map (r : Reply) (j : Channel) : (s.respond r).map j = s.map j := rfl
@[simp] theorem respond_burst (r : Reply) (j : Channel) : (s.respond r).burst j = s.burst j := rfl
@[simp] theorem respond_engine (r : Reply) (j : EngineId) : (s.respond r).engine j = s.engine j := rfl
@[simp] theorem respond_descriptor (r : Reply) (j : DescriptorId) : (s.respond r).descriptor j = s.descriptor j := rfl

@[simp] theorem setReceiver_stations (r : Receiver) : (s.setReceiver r).stations = s.stations := rfl
@[simp] theorem setReceiver_sidMap (r : Receiver) : (s.setReceiver r).sidMap = s.sidMap := rfl
@[simp] theorem setReceiver_counts (r : Receiver) : (s.setReceiver r).counts = s.counts := rfl
@[simp] theorem setReceiver_counter (r : Receiver) : (s.setReceiver r).counter = s.counter := rfl
@[simp] theorem setReceiver_loadPending (r : Receiver) : (s.setReceiver r).loadPending = s.loadPending := rfl
@[simp] theorem setReceiver_pendingLoad (r : Receiver) : (s.setReceiver r).pendingLoad = s.pendingLoad := rfl
@[simp] theorem setReceiver_windowLead (r : Receiver) : (s.setReceiver r).windowLead = s.windowLead := rfl
@[simp] theorem setReceiver_probeLifetime (r : Receiver) : (s.setReceiver r).probeLifetime = s.probeLifetime := rfl
@[simp] theorem setReceiver_points (r : Receiver) : (s.setReceiver r).points = s.points := rfl
@[simp] theorem setReceiver_maps (r : Receiver) : (s.setReceiver r).maps = s.maps := rfl
@[simp] theorem setReceiver_bursts (r : Receiver) : (s.setReceiver r).bursts = s.bursts := rfl
@[simp] theorem setReceiver_symbolOut (r : Receiver) : (s.setReceiver r).symbolOut = s.symbolOut := rfl
@[simp] theorem setReceiver_engines (r : Receiver) : (s.setReceiver r).engines = s.engines := rfl
@[simp] theorem setReceiver_waiting (r : Receiver) : (s.setReceiver r).waiting = s.waiting := rfl
@[simp] theorem setReceiver_descriptors (r : Receiver) : (s.setReceiver r).descriptors = s.descriptors := rfl
@[simp] theorem setReceiver_queue (r : Receiver) : (s.setReceiver r).queue = s.queue := rfl
@[simp] theorem setReceiver_held (r : Receiver) : (s.setReceiver r).held = s.held := rfl
@[simp] theorem setReceiver_probes (r : Receiver) : (s.setReceiver r).probes = s.probes := rfl
@[simp] theorem setReceiver_probeOverflow (r : Receiver) : (s.setReceiver r).probeOverflow = s.probeOverflow := rfl
@[simp] theorem setReceiver_choices (r : Receiver) : (s.setReceiver r).choices = s.choices := rfl
@[simp] theorem setReceiver_pending (r : Receiver) : (s.setReceiver r).pending = s.pending := rfl
@[simp] theorem setReceiver_station (r : Receiver) (j : Slot) : (s.setReceiver r).station j = s.station j := rfl
@[simp] theorem setReceiver_sidEntry (r : Receiver) (j : Sid) : (s.setReceiver r).sidEntry j = s.sidEntry j := rfl
@[simp] theorem setReceiver_point (r : Receiver) (j : Channel) : (s.setReceiver r).point j = s.point j := rfl
@[simp] theorem setReceiver_map (r : Receiver) (j : Channel) : (s.setReceiver r).map j = s.map j := rfl
@[simp] theorem setReceiver_burst (r : Receiver) (j : Channel) : (s.setReceiver r).burst j = s.burst j := rfl
@[simp] theorem setReceiver_engine (r : Receiver) (j : EngineId) : (s.setReceiver r).engine j = s.engine j := rfl
@[simp] theorem setReceiver_descriptor (r : Receiver) (j : DescriptorId) : (s.setReceiver r).descriptor j = s.descriptor j := rfl

@[simp] theorem awaitCode_receiver : s.awaitCode.link.receiver = .awaitCode := rfl
@[simp] theorem awaitCode_sending : s.awaitCode.link.sending = s.link.sending := rfl
@[simp] theorem awaitCode_flagByte : s.awaitCode.link.flagByte = s.link.flagByte := rfl
@[simp] theorem respond_receiver (r : Reply) : (s.respond r).link.receiver = s.link.receiver := rfl
@[simp] theorem respond_sending (r : Reply) :
    (s.respond r).link.sending = some (responseFrame s.link.flagByte r) := rfl
@[simp] theorem respond_framing (r : Reply) : (s.respond r).link.framing = false := rfl
@[simp] theorem respond_parity (r : Reply) : (s.respond r).link.parity = false := rfl
@[simp] theorem respond_overrun (r : Reply) : (s.respond r).link.overrun = false := rfl
@[simp] theorem setReceiver_receiver (r : Receiver) : (s.setReceiver r).link.receiver = r := rfl
@[simp] theorem setReceiver_sending (r : Receiver) : (s.setReceiver r).link.sending = s.link.sending := rfl
@[simp] theorem setReceiver_address (r : Receiver) : (s.setReceiver r).link.address = s.link.address := rfl
@[simp] theorem setReceiver_setReceiver (r q : Receiver) : (s.setReceiver r).setReceiver q = s.setReceiver q := rfl

/-! ### The state after part reset -/

@[simp] theorem station_resetWith (x : Straps) (i : Slot) : (State.resetWith x).station i = .reset := by
  simp [State.station, State.resetWith]
@[simp] theorem sidEntry_resetWith (x : Straps) (v : Sid) : (State.resetWith x).sidEntry v = none := by
  simp [State.sidEntry, State.resetWith]
@[simp] theorem point_resetWith (x : Straps) (c : Channel) : (State.resetWith x).point c = .reset := by
  simp [State.point, State.resetWith]
@[simp] theorem map_resetWith (x : Straps) (c : Channel) : (State.resetWith x).map c = .reset := by
  simp [State.map, State.resetWith]
@[simp] theorem burst_resetWith (x : Straps) (c : Channel) : (State.resetWith x).burst c = .reset := by
  simp [State.burst, State.resetWith]
@[simp] theorem engine_resetWith (x : Straps) (e : EngineId) : (State.resetWith x).engine e = .reset := by
  simp [State.engine, State.resetWith]
@[simp] theorem descriptor_resetWith (x : Straps) (i : DescriptorId) : (State.resetWith x).descriptor i = .empty := by
  simp [State.descriptor, State.resetWith]
@[simp] theorem emitted_resetWith (x : Straps) (c : Channel) : (State.resetWith x).emitted c = [] := by
  simp [State.emitted, State.resetWith]

end Sys2Proof.Machine
end

