-- ==== Sys2Proof/Laws/Frames.lean ====
section
/-! SUPPORT. What each shared operation leaves alone: five frames, from the operations on one record outward to the
whole of an event, and one lemma for each operation. -/

namespace Sys2Proof.Machine

/-- What no burst event, time event or completion changes. -/
structure EventFrame (s t : State) : Prop where
  sidMap : t.sidMap = s.sidMap
  counter : t.counter = s.counter
  loadPending : t.loadPending = s.loadPending
  pendingLoad : t.pendingLoad = s.pendingLoad
  windowLead : t.windowLead = s.windowLead
  probeLifetime : t.probeLifetime = s.probeLifetime
  descriptors : t.descriptors = s.descriptors
  link : t.link = s.link
  pending : t.pending = s.pending

/-- What an operation of a burst leaves alone besides: the maps and the Probe List. -/
structure BurstFrame (s t : State) : Prop extends EventFrame s t where
  maps : t.maps = s.maps
  probes : t.probes = s.probes
  probeOverflow : t.probeOverflow = s.probeOverflow

/-- What an engine operation leaves alone besides: the time points and Symbol Out. -/
structure EngineFrame (s t : State) : Prop extends BurstFrame s t where
  points : t.points = s.points
  symbolOut : t.symbolOut = s.symbolOut

/-- What a completion or a correction request leaves alone besides: the engines, the bursts and the waiting order. -/
structure CompletionFrame (s t : State) : Prop extends EngineFrame s t where
  engines : t.engines = s.engines
  bursts : t.bursts = s.bursts
  waiting : t.waiting = s.waiting
  choices : t.choices = s.choices

/-- What an operation on one record leaves alone besides: the Correction Queue and the Held List. -/
structure RecordFrame (s t : State) : Prop extends CompletionFrame s t where
  queue : t.queue = s.queue
  held : t.held = s.held

theorem EventFrame.refl (s : State) : EventFrame s s := by constructor <;> rfl
theorem BurstFrame.refl (s : State) : BurstFrame s s := { EventFrame.refl s with maps := rfl, probes := rfl, probeOverflow := rfl }
theorem EngineFrame.refl (s : State) : EngineFrame s s := { BurstFrame.refl s with points := rfl, symbolOut := rfl }
theorem CompletionFrame.refl (s : State) : CompletionFrame s s :=
  { EngineFrame.refl s with engines := rfl, bursts := rfl, waiting := rfl, choices := rfl }
theorem RecordFrame.refl (s : State) : RecordFrame s s := { CompletionFrame.refl s with queue := rfl, held := rfl }

theorem EventFrame.trans {s t u : State} (a : EventFrame s t) (b : EventFrame t u) : EventFrame s u := by
  cases a; cases b; constructor <;> simp_all
theorem BurstFrame.trans {s t u : State} (a : BurstFrame s t) (b : BurstFrame t u) : BurstFrame s u :=
  { a.toEventFrame.trans b.toEventFrame with
    maps := b.maps.trans a.maps, probes := b.probes.trans a.probes,
    probeOverflow := b.probeOverflow.trans a.probeOverflow }
theorem EngineFrame.trans {s t u : State} (a : EngineFrame s t) (b : EngineFrame t u) : EngineFrame s u :=
  { a.toBurstFrame.trans b.toBurstFrame with
    points := b.points.trans a.points, symbolOut := b.symbolOut.trans a.symbolOut }
theorem CompletionFrame.trans {s t u : State} (a : CompletionFrame s t) (b : CompletionFrame t u) :
    CompletionFrame s u :=
  { a.toEngineFrame.trans b.toEngineFrame with
    engines := b.engines.trans a.engines, bursts := b.bursts.trans a.bursts,
    waiting := b.waiting.trans a.waiting, choices := b.choices.trans a.choices }
theorem RecordFrame.trans {s t u : State} (a : RecordFrame s t) (b : RecordFrame t u) : RecordFrame s u :=
  { a.toCompletionFrame.trans b.toCompletionFrame with
    queue := b.queue.trans a.queue, held := b.held.trans a.held }

/-! ### Operations on one record -/

theorem setStation_frame (s : State) (i : Slot) (r : Station) : RecordFrame s (s.setStation i r) := by
  repeat' first | rfl | constructor

theorem addAttention_frame (i : Slot) (k : AttentionKind) (s : State) : RecordFrame s (addAttention i k s) := by
  unfold addAttention
  dsimp only
  split
  · exact .refl s
  · repeat' first | rfl | constructor

theorem dropAttention_frame (i : Slot) (k : AttentionKind) (s : State) : RecordFrame s (dropAttention i k s) := by
  unfold dropAttention
  dsimp only
  split
  · repeat' first | rfl | constructor
  · exact .refl s

theorem clearAttention_frame (i : Slot) (s : State) : RecordFrame s (clearAttention i s) :=
  ((dropAttention_frame i _ s).trans (dropAttention_frame i _ _)).trans (dropAttention_frame i _ _)

theorem becomeFree_frame (i : Slot) (s : State) : RecordFrame s (becomeFree i s) :=
  (clearAttention_frame i s).trans (setStation_frame _ _ _)

theorem unbind_frame (i : Slot) (s : State) : RecordFrame s (unbind i s) := by
  unfold unbind
  dsimp only
  split
  · exact becomeFree_frame i s
  · exact setStation_frame _ _ _

theorem countMiss_frame (i : Slot) (s : State) : RecordFrame s (countMiss i s) := by
  unfold countMiss
  dsimp only
  split
  · split
    · exact setStation_frame _ _ _
    · exact (setStation_frame _ _ _).trans (addAttention_frame i _ _)
  · exact .refl s

theorem reloadMisses_frame (i : Slot) (s : State) : RecordFrame s (reloadMisses i s) := setStation_frame _ _ _

theorem addAttentionIf_frame (b : Bool) (i : Slot) (k : AttentionKind) (s : State) :
    RecordFrame s (addAttentionIf b i k s) := by
  cases b
  · exact .refl s
  · exact addAttention_frame i k s

theorem writeMeasured_frame (i : Slot) (kind : GrantKind) (errors : Offsets) (s : State) :
    RecordFrame s (writeMeasured i kind errors s) :=
  (setStation_frame _ _ _).trans (reloadMisses_frame i _)

theorem dropKinds_frame (i : Slot) (ks : List AttentionKind) (s : State) : RecordFrame s (dropKinds i ks s) := by
  induction ks generalizing s with
  | nil => exact .refl s
  | cons k rest ih => exact (dropAttention_frame i k s).trans (ih _)

/-! ### Corrections and completions -/

theorem enterQueue_frame (i : Slot) (s : State) : CompletionFrame s (enterQueue i s) := by repeat' first | rfl | constructor
theorem enterHeld_frame (i : Slot) (s : State) : CompletionFrame s (enterHeld i s) := by repeat' first | rfl | constructor

theorem requestCorrection_frame (i : Slot) (s : State) : CompletionFrame s (requestCorrection i s) := by
  unfold requestCorrection
  split
  · split
    · exact enterQueue_frame i s
    · exact enterHeld_frame i s
  · exact .refl s
  · exact (setStation_frame _ _ _).toCompletionFrame

theorem refill_frame (s : State) : CompletionFrame s (refill s) := by
  unfold refill
  split
  · exact .refl s
  · repeat' first | rfl | constructor

theorem clearCorrection_frame (i : Slot) (s : State) : RecordFrame s (clearCorrection i s) := setStation_frame _ _ _

theorem withdrawCorrection_frame (i : Slot) (s : State) : CompletionFrame s (withdrawCorrection i s) := by
  unfold withdrawCorrection
  split
  · exact (clearCorrection_frame i s).toCompletionFrame
  · repeat' first | rfl | constructor
  · exact CompletionFrame.trans (by repeat' first | rfl | constructor) (refill_frame _)

theorem takeEntry_frame (e : Correction) (rest : List Correction) (s : State) :
    CompletionFrame s (takeEntry e rest s) := by
  unfold takeEntry
  have h : CompletionFrame s (refill (clearCorrection e.slot
      ({ s with queue := rest }.setStation e.slot (applyTaken e (s.station e.slot))))) :=
    CompletionFrame.trans (by repeat' first | rfl | constructor) (refill_frame _)
  dsimp only
  split
  · exact h.trans (requestCorrection_frame _ _)
  · exact h

theorem complete_frame (p : Report) (s : State) : CompletionFrame s (complete p s) := by
  unfold complete
  have marked (c : Counted) : CompletionFrame s (addAttentionIf p.saturated p.slot .saturated
      (addAttentionIf c.done p.slot .programmeDone (s.setStation p.slot c.record))) :=
    ((setStation_frame _ _ _).trans ((addAttentionIf_frame _ _ _ _).trans
      (addAttentionIf_frame _ _ _ _))).toCompletionFrame
  dsimp only
  split
  · refine CompletionFrame.trans ?_ (unbind_frame _ _).toCompletionFrame
    split
    · exact (marked _).trans (requestCorrection_frame _ _)
    · exact marked _
  · exact ((addAttentionIf_frame _ _ _ _).trans (unbind_frame _ _)).toCompletionFrame

theorem completeSettling_frame (e : EngineId) (all : Bool) (s : State) :
    CompletionFrame s (completeSettling e all s) := by
  unfold completeSettling
  split
  · exact complete_frame _ _
  · exact .refl s

theorem retireIdentity_stations (v : Sid) (i : Slot) (s : State) :
    CompletionFrame (s.setSidEntry v none) (retireIdentity v i s) :=
  (withdrawCorrection_frame i _).trans
    ((setStation_frame _ _ _).trans (clearAttention_frame i _)).toCompletionFrame

/-! ### Engines -/

theorem grantEngine_frame (e : EngineId) (q : EngineRequest) (s : State) : EngineFrame s (grantEngine e q s) := by
  repeat' first | rfl | constructor

theorem releaseEngine_frame (e : EngineId) (s : State) : EngineFrame s (releaseEngine e s) := by
  unfold releaseEngine
  split
  · repeat' first | rfl | constructor
  · repeat' first | rfl | constructor

theorem pick_frame {α : Type} (s : State) (l : List α) : EngineFrame s (s.pick l).2 := by
  unfold State.pick
  split
  · exact .refl s
  · exact .refl s
  · repeat' first | rfl | constructor

theorem preemptedEngine_frame (s : State) : EngineFrame s (preemptedEngine s).2 := by
  unfold preemptedEngine
  dsimp only
  split
  · exact .refl s
  · exact pick_frame s _

theorem requestEngine_frame (q : EngineRequest) (s : State) : EngineFrame s (requestEngine q s) := by
  unfold requestEngine
  split
  · exact grantEngine_frame _ _ s
  · have h := preemptedEngine_frame s
    split
    · next e t heq =>
      rw [heq] at h
      exact (h.trans (completeSettling_frame e false t).toEngineFrame).trans (grantEngine_frame _ _ _)
    · repeat' first | rfl | constructor

theorem withdrawRequest_frame (c : Channel) (s : State) : EngineFrame s (withdrawRequest c s) := by
  repeat' first | rfl | constructor

theorem preemptRecord_frame (e : EngineId) (s : State) : EngineFrame s (preemptRecord e s) :=
  (completeSettling_frame e false s).toEngineFrame.trans (releaseEngine_frame e _)

theorem setEngine_frame (s : State) (e : EngineId) (x : Engine) : EngineFrame s (s.setEngine e x) := by
  repeat' first | rfl | constructor

theorem setBurst_frame (s : State) (c : Channel) (b : Burst) : EngineFrame s (s.setBurst c b) := by
  repeat' first | rfl | constructor

theorem completePass_frame (e : EngineId) (s : State) : EngineFrame s (completePass e s) := by
  unfold completePass
  dsimp only
  split
  · exact setEngine_frame _ _ _
  · exact ((setEngine_frame _ _ _).trans (completeSettling_frame _ _ _).toEngineFrame).trans (releaseEngine_frame _ _)

theorem releaseItem_frame (x : EngineItem) (s : State) : EngineFrame s (releaseItem x s) := by
  cases x
  · exact .refl s
  · exact .refl s
  · exact releaseEngine_frame _ s

/-! ### Bursts -/

theorem emit_frame (s : State) (c : Channel) (x : SymbolItem) : BurstFrame s (s.emit c x) := by repeat' first | rfl | constructor

theorem setPoint_frame (s : State) (c : Channel) (p : TimePoints) : BurstFrame s (s.setPoint c p) := by
  repeat' first | rfl | constructor

theorem emitTrailer_frame (c : Channel) (b : Burst) (o : BurstOutcome) (s : State) :
    BurstFrame s (emitTrailer c b o s) := by
  unfold emitTrailer
  split
  · exact emit_frame _ _ _
  · exact .refl s

theorem beginUnicast_frame (c : Channel) (w : Window) (i : Slot) (phase : BitVec 6) (s : State) :
    EngineFrame s (beginUnicast c w i phase s) := by
  unfold beginUnicast
  dsimp only
  refine EngineFrame.trans ?_ (requestEngine_frame _ _)
  refine EngineFrame.trans ?_ (setBurst_frame _ _ _)
  refine EngineFrame.trans ?_ (setStation_frame _ _ _).toEngineFrame
  split
  · exact preemptRecord_frame _ s
  · exact .refl s
  · exact .refl s

theorem detectByState_frame (c : Channel) (phase : BitVec 6) (s : State) :
    EngineFrame s (detectByState c phase s) := by
  unfold detectByState
  dsimp only
  split
  · exact .refl s
  · exact .refl s
  · exact setBurst_frame _ _ _
  · exact setBurst_frame _ _ _
  · split
    · exact .refl s
    · unfold detectOpen
      split
      · exact setBurst_frame _ _ _
      · exact .refl s
      · split
        · exact .refl s
        · split
          · exact beginUnicast_frame _ _ _ _ s
          · exact .refl s

theorem detect_frame (c : Channel) (phase : BitVec 6) (s : State) : EngineFrame s (detect c phase s) := by
  unfold detect
  split
  exacts [.refl s, detectByState_frame c phase s]

theorem decideMode_frame (c : Channel) (w : Window) (s : State) : BurstFrame s (decideMode c w s) := by
  unfold decideMode
  dsimp only
  split
  · exact (setBurst_frame _ _ _).toBurstFrame.trans (emit_frame _ _ _)
  · exact ((withdrawRequest_frame _ _).trans (setBurst_frame _ _ _)).toBurstFrame.trans (emit_frame _ _ _)

theorem preambleDone_frame (c : Channel) (s : State) : BurstFrame s (preambleDone c s) := by
  unfold preambleDone
  split
  · split
    · exact decideMode_frame _ _ _
    · exact .refl s
  · exact .refl s

theorem symbol_frame (c : Channel) (x : Cplx) (r : Option Cplx) (s : State) : BurstFrame s (symbol c x r s) := by
  unfold symbol
  split
  · exact .refl s
  · split
    · repeat' first | rfl | constructor
    · exact emit_frame _ _ _
    · exact .refl s

theorem claim_frame (c : Channel) (t : Token) (v : Bool) (s : State) : EngineFrame s (claim c t v s) := by
  unfold claim
  split
  · exact setBurst_frame _ _ _
  · exact .refl s

theorem startSettling_frame (e : EngineId) (i : Slot) (o : Offsets) (s : State) :
    EngineFrame s (startSettling e i o s) := by
  repeat' first | rfl | constructor

theorem endMaintOnEngine_frame (e : EngineId) (i : Slot) (o : Offsets) (s : State) :
    EngineFrame s (endMaintOnEngine e i o s) := by
  unfold endMaintOnEngine
  dsimp only
  split
  · split
    · exact startSettling_frame _ _ _ _
    · exact (complete_frame _ _).toEngineFrame.trans (releaseEngine_frame _ _)
  · exact (complete_frame _ _).toEngineFrame.trans (releaseEngine_frame _ _)

theorem endMaint_frame (b : Burst) (i : Slot) (o : Offsets) (s : State) : EngineFrame s (endMaint b i o s) := by
  unfold endMaint
  split
  · exact endMaintOnEngine_frame _ _ _ _
  · exact (complete_frame _ _).toEngineFrame

theorem endPlain_frame (b : Burst) (i : Slot) (s : State) : EngineFrame s (endPlain b i s) :=
  (releaseItem_frame _ s).trans (unbind_frame i _).toEngineFrame

theorem endRecord_frame (b : Burst) (w : Window) (i : Slot) (p f : Int) (s : State) :
    EngineFrame s (endRecord b w i p f s) := by
  unfold endRecord
  dsimp only
  split
  · exact endPlain_frame _ _ _
  · split
    · refine EngineFrame.trans ?_ (endPlain_frame _ _ _)
      split
      · exact (countMiss_frame _ _).toEngineFrame
      · exact .refl s
    · split
      · exact (writeMeasured_frame _ _ _ _).toEngineFrame.trans (endMaint_frame _ _ _ _)
      · exact (writeMeasured_frame _ _ _ _).toEngineFrame.trans (endPlain_frame _ _ _)

theorem endUnicast_frame (c : Channel) (w : Window) (i : Slot) (p f : Int) (s : State) :
    BurstFrame s (endUnicast c w i p f s) := by
  unfold endUnicast
  dsimp only
  refine BurstFrame.trans ?_ (setBurst_frame _ _ _).toBurstFrame
  exact ((setPoint_frame _ _ _).trans (endRecord_frame _ _ _ _ _ _).toBurstFrame).trans (emitTrailer_frame _ _ _ _)

theorem takeClaim_frame (x : ProbeClaim) (s : State) : EventFrame s (takeClaim x s) := by
  unfold takeClaim
  split
  · repeat' first | rfl | constructor
  · split
    · repeat' first | rfl | constructor
    · repeat' first | rfl | constructor

theorem endContention_frame (c : Channel) (w : Window) (p f : Int) (s : State) :
    EventFrame s (endContention c w p f s) := by
  unfold endContention
  dsimp only
  refine EventFrame.trans ?_ (setBurst_frame _ _ _).toEventFrame
  split
  · exact (setPoint_frame _ _ _).toEventFrame.trans (takeClaim_frame _ _)
  · exact (setPoint_frame _ _ _).toEventFrame

theorem burstEnd_frame (c : Channel) (p f : Int) (s : State) : EventFrame s (burstEnd c p f s) := by
  unfold burstEnd
  split
  · exact endContention_frame _ _ _ _ _
  · split
    · refine (BurstFrame.trans ?_ (endUnicast_frame _ _ _ _ _ _)).toEventFrame
      split
      · exact decideMode_frame _ _ _
      · exact .refl s
    · exact .refl s

theorem dropUnicast_frame (c : Channel) (b : Burst) (i : Slot) (s : State) : EngineFrame s (dropUnicast c b i s) :=
  ((withdrawRequest_frame c s).trans (releaseItem_frame _ _)).trans (unbind_frame i _).toEngineFrame

theorem missTruncated_frame (w : Window) (i : Slot) (s : State) : RecordFrame s (missTruncated w i s) := by
  unfold missTruncated
  split
  · exact countMiss_frame _ _
  · exact .refl s

theorem truncate_frame (c : Channel) (s : State) : BurstFrame s (truncate c s) := by
  unfold truncate
  dsimp only
  split
  · refine BurstFrame.trans ?_ (setBurst_frame _ _ _).toBurstFrame
    refine BurstFrame.trans ?_ (emitTrailer_frame _ _ _ _)
    split
    · exact (setPoint_frame _ _ _).trans
        ((missTruncated_frame _ _ _).toEngineFrame.trans (dropUnicast_frame _ _ _ _)).toBurstFrame
    · exact setPoint_frame _ _ _
  · exact .refl s

theorem abandon_frame (c : Channel) (s : State) : BurstFrame s (abandon c s) := by
  unfold abandon
  dsimp only
  refine BurstFrame.trans ?_ (setBurst_frame _ _ _).toBurstFrame
  split
  · exact (dropUnicast_frame _ _ _ _).toBurstFrame.trans (emitTrailer_frame _ _ _ _)
  · exact .refl s

/-! ### Windows and maps -/

theorem setMap_frame (s : State) (c : Channel) (m : ChannelMap) : EventFrame s (s.setMap c m) := by
  repeat' first | rfl | constructor

theorem openWindow_frame (c : Channel) (g : Grant) (s : State) : EventFrame s (openWindow c g s) := by
  unfold openWindow
  dsimp only
  exact (((setMap_frame _ _ _).trans (setPoint_frame _ _ _).toEventFrame).trans
    (truncate_frame _ _).toEventFrame).trans (setBurst_frame _ _ _).toEventFrame

theorem setOpening_frame (c : Channel) (s : State) : BurstFrame s (setOpening c s) := setPoint_frame _ _ _

theorem testOpening_frame (c : Channel) (s : State) : EventFrame s (testOpening c s) := by
  unfold testOpening
  split
  · exact openWindow_frame _ _ _
  · exact (setOpening_frame _ _).toEventFrame

theorem missUnused_frame (c : Channel) (b : Burst) (s : State) : RecordFrame s (missUnused c b s) := by
  unfold missUnused
  split
  · exact .refl s
  · split
    · split
      · exact countMiss_frame _ _
      · exact .refl s
    · exact .refl s

theorem sequencerClose_frame (c : Channel) (close : Tick) (s : State) : BurstFrame s (sequencerClose c close s) := by
  unfold sequencerClose
  dsimp only
  split
  · exact ((missUnused_frame _ _ _).toEngineFrame.trans (setBurst_frame _ _ _)).toBurstFrame
  · exact (setBurst_frame _ _ _).toBurstFrame.trans (setPoint_frame _ _ _)
  · exact (setBurst_frame _ _ _).toBurstFrame.trans (setPoint_frame _ _ _)
  · exact (setBurst_frame _ _ _).toBurstFrame
  · exact .refl s

theorem closeWindow_frame (c : Channel) (close : Tick) (s : State) : EventFrame s (closeWindow c close s) :=
  ((setPoint_frame _ _ _).trans (sequencerClose_frame _ _ _)).toEventFrame.trans (testOpening_frame _ _)

theorem expireGrace_frame (c : Channel) (s : State) : BurstFrame s (expireGrace c s) :=
  (setPoint_frame _ _ _).trans (truncate_frame _ _)

theorem promote_frame (c : Channel) (m : BurstMap) (s : State) : EventFrame s (promote c m s) :=
  ((setMap_frame _ _ _).trans (setPoint_frame _ _ _).toEventFrame).trans (testOpening_frame _ _)

theorem starve_frame (c : Channel) (s : State) : EventFrame s (starve c s) :=
  (setMap_frame _ _ _).trans (setPoint_frame _ _ _).toEventFrame

theorem ageProbes_frame (c : Channel) (s : State) : EventFrame s (ageProbes c s) := by repeat' first | rfl | constructor

theorem reachMapEnd_frame (c : Channel) (s : State) : EventFrame s (reachMapEnd c s) := by
  unfold reachMapEnd
  split
  · exact (promote_frame _ _ _).trans (ageProbes_frame _ _)
  · exact starve_frame _ _
  · exact starve_frame _ _

theorem take_frame (x : TimeEvent) (s : State) : EventFrame s (x.take s) := by
  cases x <;> unfold TimeEvent.take
  · dsimp only
    unfold openReached
    split
    · exact openWindow_frame _ _ _
    · exact .refl s
  · exact closeWindow_frame _ _ _
  · exact (expireGrace_frame _ _).toEventFrame
  · exact reachMapEnd_frame _ _

theorem takeIfRaised_frame (x : TimeEvent) (s : State) : EventFrame s (takeIfRaised x s) := by
  unfold takeIfRaised
  split
  · exact take_frame x s
  · exact .refl s

theorem takeRaised_frame (n : Nat) (s : State) : EventFrame s (takeRaised n s) := by
  induction n generalizing s with
  | zero => exact .refl s
  | succ n ih =>
    unfold takeRaised
    have h := pick_frame s (raisedEvents s)
    split
    · exact .refl s
    · next x t heq =>
      rw [heq] at h
      exact (h.toEventFrame.trans (take_frame x t)).trans (ih _)

theorem openNow_frame (n : Nat) (s : State) : EventFrame s (openNow n s) := by
  induction n generalizing s with
  | zero => exact .refl s
  | succ n ih =>
    unfold openNow
    have h := pick_frame s (openingChannels s)
    split
    · exact .refl s
    · next c t heq =>
      rw [heq] at h
      exact (h.toEventFrame.trans (testOpening_frame c t)).trans (ih _)

theorem testAll_frame (s : State) : EventFrame s (testAll s) := by
  unfold testAll
  refine EventFrame.trans ?_ (openNow_frame _ _)
  exact (((setOpening_frame _ _).trans (setOpening_frame _ _)).trans
    ((setOpening_frame _ _).trans (setOpening_frame _ _))).toEventFrame

theorem resetChannel_frame (c : Channel) (s : State) : EventFrame s (resetChannel c s) :=
  ((abandon_frame _ _).toEventFrame.trans (setMap_frame _ _ _)).trans (setPoint_frame _ _ _).toEventFrame

end Sys2Proof.Machine
end

