-- ==== Sys2Proof/Laws/Commute.lean ====
section
/-! SUPPORT. The order of writes does not matter: the setters of different fields commute, a later write of one place
wins, and an operation on the records alone gives the same whatever stands in the other blocks. -/

namespace Sys2Proof.Machine

/-! ### Setters -/

@[simp] theorem setStation_setStation (s : State) (i : Slot) (x y : Station) : (s.setStation i x).setStation i y = s.setStation i y := by simp [State.setStation]
@[simp] theorem setStation_self (s : State) (i : Slot) : s.setStation i (s.station i) = s := by simp [State.setStation, State.station]
@[simp] theorem setSidEntry_setSidEntry (s : State) (i : Sid) (x y : Option Slot) : (s.setSidEntry i x).setSidEntry i y = s.setSidEntry i y := by simp [State.setSidEntry]
@[simp] theorem setSidEntry_self (s : State) (i : Sid) : s.setSidEntry i (s.sidEntry i) = s := by simp [State.setSidEntry, State.sidEntry]
@[simp] theorem setPoint_setPoint (s : State) (i : Channel) (x y : TimePoints) : (s.setPoint i x).setPoint i y = s.setPoint i y := by simp [State.setPoint]
@[simp] theorem setPoint_self (s : State) (i : Channel) : s.setPoint i (s.point i) = s := by simp [State.setPoint, State.point]
@[simp] theorem setMap_setMap (s : State) (i : Channel) (x y : ChannelMap) : (s.setMap i x).setMap i y = s.setMap i y := by simp [State.setMap]
@[simp] theorem setMap_self (s : State) (i : Channel) : s.setMap i (s.map i) = s := by simp [State.setMap, State.map]
@[simp] theorem setBurst_setBurst (s : State) (i : Channel) (x y : Burst) : (s.setBurst i x).setBurst i y = s.setBurst i y := by simp [State.setBurst]
@[simp] theorem setBurst_self (s : State) (i : Channel) : s.setBurst i (s.burst i) = s := by simp [State.setBurst, State.burst]
@[simp] theorem setEngine_setEngine (s : State) (i : EngineId) (x y : Engine) : (s.setEngine i x).setEngine i y = s.setEngine i y := by simp [State.setEngine]
@[simp] theorem setEngine_self (s : State) (i : EngineId) : s.setEngine i (s.engine i) = s := by simp [State.setEngine, State.engine]

theorem setStation_comm (s : State) (i j : Slot) (x y : Station) (h : i ≠ j) :
    (s.setStation i x).setStation j y = (s.setStation j y).setStation i x := by
  simp only [State.setStation, State.mk.injEq, and_true]
  exact Vector.set_comm x y (fun e => h (Fin.ext e))
theorem setSidEntry_comm (s : State) (i j : Sid) (x y : Option Slot) (h : i ≠ j) :
    (s.setSidEntry i x).setSidEntry j y = (s.setSidEntry j y).setSidEntry i x := by
  simp only [State.setSidEntry, State.mk.injEq, and_true, true_and]
  exact Vector.set_comm x y (fun e => h (Fin.ext e))
theorem setPoint_comm (s : State) (i j : Channel) (x y : TimePoints) (h : i ≠ j) :
    (s.setPoint i x).setPoint j y = (s.setPoint j y).setPoint i x := by
  simp only [State.setPoint, State.mk.injEq, and_true, true_and]
  exact Vector.set_comm x y (fun e => h (Fin.ext e))
theorem setMap_comm (s : State) (i j : Channel) (x y : ChannelMap) (h : i ≠ j) :
    (s.setMap i x).setMap j y = (s.setMap j y).setMap i x := by
  simp only [State.setMap, State.mk.injEq, and_true, true_and]
  exact Vector.set_comm x y (fun e => h (Fin.ext e))
theorem setBurst_comm (s : State) (i j : Channel) (x y : Burst) (h : i ≠ j) :
    (s.setBurst i x).setBurst j y = (s.setBurst j y).setBurst i x := by
  simp only [State.setBurst, State.mk.injEq, and_true, true_and]
  exact Vector.set_comm x y (fun e => h (Fin.ext e))
theorem setEngine_comm (s : State) (i j : EngineId) (x y : Engine) (h : i ≠ j) :
    (s.setEngine i x).setEngine j y = (s.setEngine j y).setEngine i x := by
  simp only [State.setEngine, State.mk.injEq, and_true, true_and]
  exact Vector.set_comm x y (fun e => h (Fin.ext e))

theorem setSidEntry_setStation (s : State) (i : Slot) (x : Station) (j : Sid) (y : Option Slot) :
    (s.setSidEntry j y).setStation i x = (s.setStation i x).setSidEntry j y := rfl
theorem setPoint_setStation (s : State) (i : Slot) (x : Station) (j : Channel) (y : TimePoints) :
    (s.setPoint j y).setStation i x = (s.setStation i x).setPoint j y := rfl
theorem setMap_setStation (s : State) (i : Slot) (x : Station) (j : Channel) (y : ChannelMap) :
    (s.setMap j y).setStation i x = (s.setStation i x).setMap j y := rfl
theorem setBurst_setStation (s : State) (i : Slot) (x : Station) (j : Channel) (y : Burst) :
    (s.setBurst j y).setStation i x = (s.setStation i x).setBurst j y := rfl
theorem setEngine_setStation (s : State) (i : Slot) (x : Station) (j : EngineId) (y : Engine) :
    (s.setEngine j y).setStation i x = (s.setStation i x).setEngine j y := rfl
theorem emit_setStation (s : State) (i : Slot) (x : Station) (c : Channel) (y : SymbolItem) :
    (s.emit c y).setStation i x = (s.setStation i x).emit c y := rfl
theorem setPoint_setSidEntry (s : State) (i : Sid) (x : Option Slot) (j : Channel) (y : TimePoints) :
    (s.setPoint j y).setSidEntry i x = (s.setSidEntry i x).setPoint j y := rfl
theorem setMap_setSidEntry (s : State) (i : Sid) (x : Option Slot) (j : Channel) (y : ChannelMap) :
    (s.setMap j y).setSidEntry i x = (s.setSidEntry i x).setMap j y := rfl
theorem setBurst_setSidEntry (s : State) (i : Sid) (x : Option Slot) (j : Channel) (y : Burst) :
    (s.setBurst j y).setSidEntry i x = (s.setSidEntry i x).setBurst j y := rfl
theorem setEngine_setSidEntry (s : State) (i : Sid) (x : Option Slot) (j : EngineId) (y : Engine) :
    (s.setEngine j y).setSidEntry i x = (s.setSidEntry i x).setEngine j y := rfl
theorem emit_setSidEntry (s : State) (i : Sid) (x : Option Slot) (c : Channel) (y : SymbolItem) :
    (s.emit c y).setSidEntry i x = (s.setSidEntry i x).emit c y := rfl
theorem setMap_setPoint (s : State) (i : Channel) (x : TimePoints) (j : Channel) (y : ChannelMap) :
    (s.setMap j y).setPoint i x = (s.setPoint i x).setMap j y := rfl
theorem setBurst_setPoint (s : State) (i : Channel) (x : TimePoints) (j : Channel) (y : Burst) :
    (s.setBurst j y).setPoint i x = (s.setPoint i x).setBurst j y := rfl
theorem setEngine_setPoint (s : State) (i : Channel) (x : TimePoints) (j : EngineId) (y : Engine) :
    (s.setEngine j y).setPoint i x = (s.setPoint i x).setEngine j y := rfl
theorem emit_setPoint (s : State) (i : Channel) (x : TimePoints) (c : Channel) (y : SymbolItem) :
    (s.emit c y).setPoint i x = (s.setPoint i x).emit c y := rfl
theorem setBurst_setMap (s : State) (i : Channel) (x : ChannelMap) (j : Channel) (y : Burst) :
    (s.setBurst j y).setMap i x = (s.setMap i x).setBurst j y := rfl
theorem setEngine_setMap (s : State) (i : Channel) (x : ChannelMap) (j : EngineId) (y : Engine) :
    (s.setEngine j y).setMap i x = (s.setMap i x).setEngine j y := rfl
theorem emit_setMap (s : State) (i : Channel) (x : ChannelMap) (c : Channel) (y : SymbolItem) :
    (s.emit c y).setMap i x = (s.setMap i x).emit c y := rfl
theorem setEngine_setBurst (s : State) (i : Channel) (x : Burst) (j : EngineId) (y : Engine) :
    (s.setEngine j y).setBurst i x = (s.setBurst i x).setEngine j y := rfl
theorem emit_setBurst (s : State) (i : Channel) (x : Burst) (c : Channel) (y : SymbolItem) :
    (s.emit c y).setBurst i x = (s.setBurst i x).emit c y := rfl
theorem emit_setEngine (s : State) (i : EngineId) (x : Engine) (c : Channel) (y : SymbolItem) :
    (s.emit c y).setEngine i x = (s.setEngine i x).emit c y := rfl

/-! ### Operations on the records -/

/-- The state `u` with the records, counts and corrections of `s`. -/
def State.withRecords (u s : State) : State :=
  { u with stations := s.stations, counts := s.counts, queue := s.queue, held := s.held }

@[simp] theorem withRecords_self (s : State) : s.withRecords s = s := rfl

@[simp] theorem withRecords_station (u s : State) (i : Slot) : (u.withRecords s).station i = s.station i := rfl
@[simp] theorem withRecords_queue (u s : State) : (u.withRecords s).queue = s.queue := rfl
@[simp] theorem withRecords_held (u s : State) : (u.withRecords s).held = s.held := rfl
@[simp] theorem withRecords_counts (u s : State) : (u.withRecords s).counts = s.counts := rfl
@[simp] theorem withRecords_setStation (u s : State) (i : Slot) (r : Station) :
    (u.withRecords s).setStation i r = u.withRecords (s.setStation i r) := rfl

theorem addAttention_local (i : Slot) (k : AttentionKind) (u s : State) :
    addAttention i k (u.withRecords s) = u.withRecords (addAttention i k s) := by
  unfold addAttention; dsimp only; rw [apply_ite (State.withRecords u)]; rfl

theorem dropAttention_local (i : Slot) (k : AttentionKind) (u s : State) :
    dropAttention i k (u.withRecords s) = u.withRecords (dropAttention i k s) := by
  unfold dropAttention; dsimp only; rw [apply_ite (State.withRecords u)]; rfl

theorem clearAttention_local (i : Slot) (u s : State) :
    clearAttention i (u.withRecords s) = u.withRecords (clearAttention i s) := by
  simp only [clearAttention, dropAttention_local]

theorem becomeFree_local (i : Slot) (u s : State) : becomeFree i (u.withRecords s) = u.withRecords (becomeFree i s) := by
  simp only [becomeFree, clearAttention_local, withRecords_setStation]

theorem unbind_local (i : Slot) (u s : State) : unbind i (u.withRecords s) = u.withRecords (unbind i s) := by
  unfold unbind; dsimp only; rw [apply_ite (State.withRecords u), ← becomeFree_local]; rfl

theorem countMiss_local (i : Slot) (u s : State) : countMiss i (u.withRecords s) = u.withRecords (countMiss i s) := by
  unfold countMiss
  dsimp only
  rw [apply_ite (State.withRecords u), apply_ite (State.withRecords u), ← addAttention_local]
  rfl

theorem reloadMisses_local (i : Slot) (u s : State) :
    reloadMisses i (u.withRecords s) = u.withRecords (reloadMisses i s) := rfl

theorem writeMeasured_local (i : Slot) (kind : GrantKind) (errors : Offsets) (u s : State) :
    writeMeasured i kind errors (u.withRecords s) = u.withRecords (writeMeasured i kind errors s) := rfl

theorem enterQueue_local (i : Slot) (u s : State) : enterQueue i (u.withRecords s) = u.withRecords (enterQueue i s) := rfl
theorem enterHeld_local (i : Slot) (u s : State) : enterHeld i (u.withRecords s) = u.withRecords (enterHeld i s) := rfl

theorem requestCorrection_local (i : Slot) (u s : State) :
    requestCorrection i (u.withRecords s) = u.withRecords (requestCorrection i s) := by
  unfold requestCorrection
  rw [withRecords_station]
  cases (s.station i).correction with
  | none => dsimp only; rw [apply_ite (State.withRecords u)]; rfl
  | held => rfl
  | queued => rfl

theorem addAttentionIf_local (b : Bool) (i : Slot) (k : AttentionKind) (u s : State) :
    addAttentionIf b i k (u.withRecords s) = u.withRecords (addAttentionIf b i k s) := by
  cases b
  · rfl
  · exact addAttention_local i k u s

theorem chainFrom_congr {u s : State} (h : u.descriptors = s.descriptors) (n : Nat) (i : DescriptorId) :
    chainFrom u n i = chainFrom s n i := by
  induction n generalizing i with
  | zero => rfl
  | succ n ih => simp only [chainFrom, State.descriptor, h, ih]; rfl

theorem chainSteps_congr {u s : State} (h : u.descriptors = s.descriptors) (v : DescriptorId) :
    chainSteps u v = chainSteps s v := by
  simp only [chainSteps, chainFrom_congr h]
  exact List.map_congr_left fun i _ => by simp [State.descriptor, h]

theorem completedRecord_congr {u s : State} (h : u.descriptors = s.descriptors) (p : Report)
    (hr : u.station p.slot = s.station p.slot) : completedRecord u p = completedRecord s p := by
  simp only [completedRecord, hr, chainSteps_congr h, State.descriptor, h]

theorem complete_local (p : Report) {u s : State} (h : u.descriptors = s.descriptors) :
    complete p (u.withRecords s) = u.withRecords (complete p s) := by
  have hc : completedRecord (u.withRecords s) p = completedRecord s p := completedRecord_congr (u := u.withRecords s) h p rfl
  unfold complete
  simp only [hc, withRecords_station, withRecords_setStation, addAttentionIf_local, requestCorrection_local]
  rw [apply_ite (State.withRecords u), ← unbind_local, ← unbind_local, apply_ite (State.withRecords u)]

/-- What a state whose records alone have changed is. -/
theorem CompletionFrame.eq {s t : State} (h : CompletionFrame s t) : t = s.withRecords t := by
  cases t
  have := h.sidMap; have := h.counter; have := h.loadPending; have := h.pendingLoad; have := h.windowLead
  have := h.probeLifetime; have := h.descriptors; have := h.link; have := h.pending; have := h.maps; have := h.probes
  have := h.probeOverflow; have := h.points; have := h.symbolOut; have := h.engines; have := h.bursts
  have := h.waiting; have := h.choices
  simp_all [State.withRecords]

/-- An operation on the records alone commutes with a write to another block. -/
theorem local_comm {f g : State → State} {s : State} (hf : f ((g s).withRecords s) = (g s).withRecords (f s))
    (hg : (g s).withRecords s = g s) (h : f s = s.withRecords (f s))
    (hw : g (s.withRecords (f s)) = (g s).withRecords (f s)) : f (g s) = g (f s) := by
  rw [h, hw, ← hf, hg]

theorem addAttention_setPoint (i : Slot) (k : AttentionKind) (s : State) (c : Channel) (x : TimePoints) :
    addAttention i k (s.setPoint c x) = (addAttention i k s).setPoint c x :=
  local_comm (f := addAttention i k) (g := fun s => s.setPoint c x)
    (addAttention_local i k _ s) rfl (addAttention_frame i k s).toCompletionFrame.eq rfl
theorem addAttention_setMap (i : Slot) (k : AttentionKind) (s : State) (c : Channel) (x : ChannelMap) :
    addAttention i k (s.setMap c x) = (addAttention i k s).setMap c x :=
  local_comm (f := addAttention i k) (g := fun s => s.setMap c x)
    (addAttention_local i k _ s) rfl (addAttention_frame i k s).toCompletionFrame.eq rfl
theorem addAttention_setBurst (i : Slot) (k : AttentionKind) (s : State) (c : Channel) (x : Burst) :
    addAttention i k (s.setBurst c x) = (addAttention i k s).setBurst c x :=
  local_comm (f := addAttention i k) (g := fun s => s.setBurst c x)
    (addAttention_local i k _ s) rfl (addAttention_frame i k s).toCompletionFrame.eq rfl
theorem addAttention_setEngine (i : Slot) (k : AttentionKind) (s : State) (e : EngineId) (x : Engine) :
    addAttention i k (s.setEngine e x) = (addAttention i k s).setEngine e x :=
  local_comm (f := addAttention i k) (g := fun s => s.setEngine e x)
    (addAttention_local i k _ s) rfl (addAttention_frame i k s).toCompletionFrame.eq rfl
theorem addAttention_emit (i : Slot) (k : AttentionKind) (s : State) (c : Channel) (x : SymbolItem) :
    addAttention i k (s.emit c x) = (addAttention i k s).emit c x :=
  local_comm (f := addAttention i k) (g := fun s => s.emit c x)
    (addAttention_local i k _ s) rfl (addAttention_frame i k s).toCompletionFrame.eq rfl
theorem addAttention_setSidEntry (i : Slot) (k : AttentionKind) (s : State) (v : Sid) (x : Option Slot) :
    addAttention i k (s.setSidEntry v x) = (addAttention i k s).setSidEntry v x :=
  local_comm (f := addAttention i k) (g := fun s => s.setSidEntry v x)
    (addAttention_local i k _ s) rfl (addAttention_frame i k s).toCompletionFrame.eq rfl
theorem becomeFree_setPoint (i : Slot) (s : State) (c : Channel) (x : TimePoints) :
    becomeFree i (s.setPoint c x) = (becomeFree i s).setPoint c x :=
  local_comm (f := becomeFree i) (g := fun s => s.setPoint c x)
    (becomeFree_local i _ s) rfl (becomeFree_frame i s).toCompletionFrame.eq rfl
theorem becomeFree_setMap (i : Slot) (s : State) (c : Channel) (x : ChannelMap) :
    becomeFree i (s.setMap c x) = (becomeFree i s).setMap c x :=
  local_comm (f := becomeFree i) (g := fun s => s.setMap c x)
    (becomeFree_local i _ s) rfl (becomeFree_frame i s).toCompletionFrame.eq rfl
theorem becomeFree_setBurst (i : Slot) (s : State) (c : Channel) (x : Burst) :
    becomeFree i (s.setBurst c x) = (becomeFree i s).setBurst c x :=
  local_comm (f := becomeFree i) (g := fun s => s.setBurst c x)
    (becomeFree_local i _ s) rfl (becomeFree_frame i s).toCompletionFrame.eq rfl
theorem becomeFree_setEngine (i : Slot) (s : State) (e : EngineId) (x : Engine) :
    becomeFree i (s.setEngine e x) = (becomeFree i s).setEngine e x :=
  local_comm (f := becomeFree i) (g := fun s => s.setEngine e x)
    (becomeFree_local i _ s) rfl (becomeFree_frame i s).toCompletionFrame.eq rfl
theorem becomeFree_emit (i : Slot) (s : State) (c : Channel) (x : SymbolItem) :
    becomeFree i (s.emit c x) = (becomeFree i s).emit c x :=
  local_comm (f := becomeFree i) (g := fun s => s.emit c x)
    (becomeFree_local i _ s) rfl (becomeFree_frame i s).toCompletionFrame.eq rfl
theorem becomeFree_setSidEntry (i : Slot) (s : State) (v : Sid) (x : Option Slot) :
    becomeFree i (s.setSidEntry v x) = (becomeFree i s).setSidEntry v x :=
  local_comm (f := becomeFree i) (g := fun s => s.setSidEntry v x)
    (becomeFree_local i _ s) rfl (becomeFree_frame i s).toCompletionFrame.eq rfl
theorem unbind_setPoint (i : Slot) (s : State) (c : Channel) (x : TimePoints) :
    unbind i (s.setPoint c x) = (unbind i s).setPoint c x :=
  local_comm (f := unbind i) (g := fun s => s.setPoint c x)
    (unbind_local i _ s) rfl (unbind_frame i s).toCompletionFrame.eq rfl
theorem unbind_setMap (i : Slot) (s : State) (c : Channel) (x : ChannelMap) :
    unbind i (s.setMap c x) = (unbind i s).setMap c x :=
  local_comm (f := unbind i) (g := fun s => s.setMap c x)
    (unbind_local i _ s) rfl (unbind_frame i s).toCompletionFrame.eq rfl
theorem unbind_setBurst (i : Slot) (s : State) (c : Channel) (x : Burst) :
    unbind i (s.setBurst c x) = (unbind i s).setBurst c x :=
  local_comm (f := unbind i) (g := fun s => s.setBurst c x)
    (unbind_local i _ s) rfl (unbind_frame i s).toCompletionFrame.eq rfl
theorem unbind_setEngine (i : Slot) (s : State) (e : EngineId) (x : Engine) :
    unbind i (s.setEngine e x) = (unbind i s).setEngine e x :=
  local_comm (f := unbind i) (g := fun s => s.setEngine e x)
    (unbind_local i _ s) rfl (unbind_frame i s).toCompletionFrame.eq rfl
theorem unbind_emit (i : Slot) (s : State) (c : Channel) (x : SymbolItem) :
    unbind i (s.emit c x) = (unbind i s).emit c x :=
  local_comm (f := unbind i) (g := fun s => s.emit c x)
    (unbind_local i _ s) rfl (unbind_frame i s).toCompletionFrame.eq rfl
theorem unbind_setSidEntry (i : Slot) (s : State) (v : Sid) (x : Option Slot) :
    unbind i (s.setSidEntry v x) = (unbind i s).setSidEntry v x :=
  local_comm (f := unbind i) (g := fun s => s.setSidEntry v x)
    (unbind_local i _ s) rfl (unbind_frame i s).toCompletionFrame.eq rfl
theorem countMiss_setPoint (i : Slot) (s : State) (c : Channel) (x : TimePoints) :
    countMiss i (s.setPoint c x) = (countMiss i s).setPoint c x :=
  local_comm (f := countMiss i) (g := fun s => s.setPoint c x)
    (countMiss_local i _ s) rfl (countMiss_frame i s).toCompletionFrame.eq rfl
theorem countMiss_setMap (i : Slot) (s : State) (c : Channel) (x : ChannelMap) :
    countMiss i (s.setMap c x) = (countMiss i s).setMap c x :=
  local_comm (f := countMiss i) (g := fun s => s.setMap c x)
    (countMiss_local i _ s) rfl (countMiss_frame i s).toCompletionFrame.eq rfl
theorem countMiss_setBurst (i : Slot) (s : State) (c : Channel) (x : Burst) :
    countMiss i (s.setBurst c x) = (countMiss i s).setBurst c x :=
  local_comm (f := countMiss i) (g := fun s => s.setBurst c x)
    (countMiss_local i _ s) rfl (countMiss_frame i s).toCompletionFrame.eq rfl
theorem countMiss_setEngine (i : Slot) (s : State) (e : EngineId) (x : Engine) :
    countMiss i (s.setEngine e x) = (countMiss i s).setEngine e x :=
  local_comm (f := countMiss i) (g := fun s => s.setEngine e x)
    (countMiss_local i _ s) rfl (countMiss_frame i s).toCompletionFrame.eq rfl
theorem countMiss_emit (i : Slot) (s : State) (c : Channel) (x : SymbolItem) :
    countMiss i (s.emit c x) = (countMiss i s).emit c x :=
  local_comm (f := countMiss i) (g := fun s => s.emit c x)
    (countMiss_local i _ s) rfl (countMiss_frame i s).toCompletionFrame.eq rfl
theorem countMiss_setSidEntry (i : Slot) (s : State) (v : Sid) (x : Option Slot) :
    countMiss i (s.setSidEntry v x) = (countMiss i s).setSidEntry v x :=
  local_comm (f := countMiss i) (g := fun s => s.setSidEntry v x)
    (countMiss_local i _ s) rfl (countMiss_frame i s).toCompletionFrame.eq rfl
theorem writeMeasured_setPoint (i : Slot) (kind : GrantKind) (errors : Offsets) (s : State) (c : Channel) (x : TimePoints) :
    writeMeasured i kind errors (s.setPoint c x) = (writeMeasured i kind errors s).setPoint c x :=
  local_comm (f := writeMeasured i kind errors) (g := fun s => s.setPoint c x)
    (writeMeasured_local i kind errors _ s) rfl (writeMeasured_frame i kind errors s).toCompletionFrame.eq rfl
theorem writeMeasured_setMap (i : Slot) (kind : GrantKind) (errors : Offsets) (s : State) (c : Channel) (x : ChannelMap) :
    writeMeasured i kind errors (s.setMap c x) = (writeMeasured i kind errors s).setMap c x :=
  local_comm (f := writeMeasured i kind errors) (g := fun s => s.setMap c x)
    (writeMeasured_local i kind errors _ s) rfl (writeMeasured_frame i kind errors s).toCompletionFrame.eq rfl
theorem writeMeasured_setBurst (i : Slot) (kind : GrantKind) (errors : Offsets) (s : State) (c : Channel) (x : Burst) :
    writeMeasured i kind errors (s.setBurst c x) = (writeMeasured i kind errors s).setBurst c x :=
  local_comm (f := writeMeasured i kind errors) (g := fun s => s.setBurst c x)
    (writeMeasured_local i kind errors _ s) rfl (writeMeasured_frame i kind errors s).toCompletionFrame.eq rfl
theorem writeMeasured_setEngine (i : Slot) (kind : GrantKind) (errors : Offsets) (s : State) (e : EngineId) (x : Engine) :
    writeMeasured i kind errors (s.setEngine e x) = (writeMeasured i kind errors s).setEngine e x :=
  local_comm (f := writeMeasured i kind errors) (g := fun s => s.setEngine e x)
    (writeMeasured_local i kind errors _ s) rfl (writeMeasured_frame i kind errors s).toCompletionFrame.eq rfl
theorem writeMeasured_emit (i : Slot) (kind : GrantKind) (errors : Offsets) (s : State) (c : Channel) (x : SymbolItem) :
    writeMeasured i kind errors (s.emit c x) = (writeMeasured i kind errors s).emit c x :=
  local_comm (f := writeMeasured i kind errors) (g := fun s => s.emit c x)
    (writeMeasured_local i kind errors _ s) rfl (writeMeasured_frame i kind errors s).toCompletionFrame.eq rfl
theorem writeMeasured_setSidEntry (i : Slot) (kind : GrantKind) (errors : Offsets) (s : State) (v : Sid) (x : Option Slot) :
    writeMeasured i kind errors (s.setSidEntry v x) = (writeMeasured i kind errors s).setSidEntry v x :=
  local_comm (f := writeMeasured i kind errors) (g := fun s => s.setSidEntry v x)
    (writeMeasured_local i kind errors _ s) rfl (writeMeasured_frame i kind errors s).toCompletionFrame.eq rfl
theorem complete_setPoint (p : Report) (s : State) (c : Channel) (x : TimePoints) :
    complete p (s.setPoint c x) = (complete p s).setPoint c x :=
  local_comm (f := complete p) (g := fun s => s.setPoint c x) (complete_local p rfl) rfl (complete_frame p s).eq rfl
theorem complete_setMap (p : Report) (s : State) (c : Channel) (x : ChannelMap) :
    complete p (s.setMap c x) = (complete p s).setMap c x :=
  local_comm (f := complete p) (g := fun s => s.setMap c x) (complete_local p rfl) rfl (complete_frame p s).eq rfl
theorem complete_setBurst (p : Report) (s : State) (c : Channel) (x : Burst) :
    complete p (s.setBurst c x) = (complete p s).setBurst c x :=
  local_comm (f := complete p) (g := fun s => s.setBurst c x) (complete_local p rfl) rfl (complete_frame p s).eq rfl
theorem complete_setEngine (p : Report) (s : State) (e : EngineId) (x : Engine) :
    complete p (s.setEngine e x) = (complete p s).setEngine e x :=
  local_comm (f := complete p) (g := fun s => s.setEngine e x) (complete_local p rfl) rfl (complete_frame p s).eq rfl
theorem complete_emit (p : Report) (s : State) (c : Channel) (x : SymbolItem) :
    complete p (s.emit c x) = (complete p s).emit c x :=
  local_comm (f := complete p) (g := fun s => s.emit c x) (complete_local p rfl) rfl (complete_frame p s).eq rfl
theorem complete_setSidEntry (p : Report) (s : State) (v : Sid) (x : Option Slot) :
    complete p (s.setSidEntry v x) = (complete p s).setSidEntry v x :=
  local_comm (f := complete p) (g := fun s => s.setSidEntry v x) (complete_local p rfl) rfl (complete_frame p s).eq rfl

end Sys2Proof.Machine
end

