-- ==== Sys2Proof/Laws/Ranges.lean ====
section
/-! SUPPORT. What the operations on records, engines, bursts and maps do to the ranges of the fields: each keeps every
field in its range. -/

namespace Sys2Proof.Machine

/-! ### The plain writers -/

theorem inRange_setStation {s : State} {r : Station} (h : s.InRange) (i : Slot) (hr : r.InRange) :
    (s.setStation i r).InRange :=
  { h with stations := fun j => by rw [station_setStation]; split; exacts [hr, h.stations j] }

theorem inRange_setEngine {s : State} {x : Engine} (h : s.InRange) (e : EngineId) (hx : x.InRange) :
    (s.setEngine e x).InRange :=
  { h with engines := fun j => by rw [engine_setEngine]; split; exacts [hx, h.engines j] }

theorem inRange_setBurst {s : State} {b : Burst} (h : s.InRange) (c : Channel) (hb : b.clips ≤ 65535) :
    (s.setBurst c b).InRange :=
  { h with clips := fun j => by rw [burst_setBurst]; split; exacts [hb, h.clips j] }

theorem inRange_setDescriptor {s : State} {d : Descriptor} (h : s.InRange) (i : DescriptorId) (hd : d.InRange) :
    (s.setDescriptor i d).InRange :=
  { h with descriptors := fun j => by rw [descriptor_setDescriptor]; split; exacts [hd, h.descriptors j] }

theorem inRange_setSidEntry {s : State} (h : s.InRange) (v : Sid) (x : Option Slot) :
    (s.setSidEntry v x).InRange := { h with }
theorem inRange_setPoint {s : State} (h : s.InRange) (c : Channel) (p : TimePoints) : (s.setPoint c p).InRange :=
  { h with }
theorem inRange_setMap {s : State} (h : s.InRange) (c : Channel) (m : ChannelMap) : (s.setMap c m).InRange :=
  { h with }
theorem inRange_emit {s : State} (h : s.InRange) (c : Channel) (x : SymbolItem) : (s.emit c x).InRange := { h with }
theorem inRange_choose {s : State} (h : s.InRange) (n : Nat) : (s.choose n).2.InRange := { h with }

theorem inRange_pick {α : Type} {s : State} (h : s.InRange) (l : List α) : (s.pick l).2.InRange := by
  unfold State.pick
  split
  · exact h
  · exact h
  · next rest => exact inRange_choose h (rest.length + 2)

theorem reset_station_inRange : Station.reset.InRange :=
  ⟨Offsets.zero_inRange, Offsets.zero_inRange, (by intro m h; cases h), setValid_none, by decide, by decide, by decide,
    by decide, by decide, by decide⟩

theorem reset_engine_inRange : Engine.reset.InRange :=
  ⟨setValid_none, setValid_none, (by intro o h; cases h), (by intro n h; cases h), by decide, by decide, by decide⟩

theorem empty_descriptor_inRange : Descriptor.empty.InRange := by constructor <;> decide

theorem resetWith_inRange (straps : Straps) : (State.resetWith straps).InRange where
  stations i := by rw [station_resetWith]; exact reset_station_inRange
  descriptors i := by rw [descriptor_resetWith]; exact empty_descriptor_inRange
  engines e := by rw [engine_resetWith]; exact reset_engine_inRange
  clips c := by rw [burst_resetWith]; exact Nat.zero_le _
  queue e he := by cases he
  probes := ⟨(by intro p hp; cases hp), by simp [State.resetWith], by simp [State.resetWith]⟩
  windowLead := by simp [State.resetWith]
  probeLifetime := by simp [State.resetWith]

/-! ### Records -/

/-- The fields that the ranges speak of are those of another record in range. -/
theorem Station.InRange.of_same {r r' : Station} (h : r.InRange) (h1 : r'.estimate = r.estimate)
    (h2 : r'.advertised = r.advertised) (h3 : r'.lastMeasured = r.lastMeasured) (h4 : r'.coefficients = r.coefficients)
    (h5 : r'.missReload = r.missReload) (h6 : r'.missesRemaining = r.missesRemaining)
    (h7 : r'.remaining = r.remaining) (h8 : r'.armed = r.armed) (h9 : r'.state = r.state) : r'.InRange := by
  cases h
  constructor <;> simp_all

theorem addAttention_inRange {s : State} (h : s.InRange) (i : Slot) (k : AttentionKind) :
    (addAttention i k s).InRange := by
  unfold addAttention
  dsimp only
  split
  · exact h
  · have := inRange_setStation h i (r := { s.station i with attention := (s.station i).attention.put true k })
      ((h.stations i).of_same rfl rfl rfl rfl rfl rfl rfl rfl rfl)
    exact { this with }

theorem addAttentionIf_inRange {s : State} (h : s.InRange) (b : Bool) (i : Slot) (k : AttentionKind) :
    (addAttentionIf b i k s).InRange := by
  cases b
  · exact h
  · exact addAttention_inRange h i k

theorem dropAttention_inRange {s : State} (h : s.InRange) (i : Slot) (k : AttentionKind) :
    (dropAttention i k s).InRange := by
  unfold dropAttention
  dsimp only
  split
  · have := inRange_setStation h i (r := { s.station i with attention := (s.station i).attention.put false k })
      ((h.stations i).of_same rfl rfl rfl rfl rfl rfl rfl rfl rfl)
    exact { this with }
  · exact h

theorem clearAttention_inRange {s : State} (h : s.InRange) (i : Slot) : (clearAttention i s).InRange :=
  dropAttention_inRange (dropAttention_inRange (dropAttention_inRange h i _) i _) i _

theorem dropKinds_inRange {s : State} (h : s.InRange) (i : Slot) (ks : List AttentionKind) :
    (dropKinds i ks s).InRange := by
  induction ks generalizing s with
  | nil => exact h
  | cons k rest ih => exact ih (dropAttention_inRange h i k)

theorem becomeFree_inRange {s : State} (h : s.InRange) (i : Slot) : (becomeFree i s).InRange :=
  inRange_setStation (clearAttention_inRange h i) i reset_station_inRange

theorem unbind_inRange {s : State} (h : s.InRange) (i : Slot) : (unbind i s).InRange := by
  unfold unbind
  dsimp only
  split
  · exact becomeFree_inRange h i
  · exact inRange_setStation h i ((h.stations i).of_same rfl rfl rfl rfl rfl rfl rfl rfl rfl)

theorem countMiss_inRange {s : State} (h : s.InRange) (i : Slot) : (countMiss i s).InRange := by
  have hi := h.stations i
  unfold countMiss
  dsimp only
  split
  · split
    · refine inRange_setStation h i ?_
      have hs := hi.spent
      cases hi
      constructor <;> first | assumption | (dsimp only; omega) | (intro e; rw [hs e])
    · refine addAttention_inRange (inRange_setStation h i ?_) i _
      cases hi
      constructor <;> first | assumption | (dsimp only; omega) | simp
  · exact h

theorem reloadMisses_inRange {s : State} (h : s.InRange) (i : Slot) : (reloadMisses i s).InRange := by
  have hi := h.stations i
  unfold reloadMisses
  refine inRange_setStation h i ?_
  have := hi.missReload
  cases hi
  constructor <;> first | assumption | (dsimp only; omega) | skip
  intro e
  exfalso
  dsimp only at e
  split at e
  · revert e
    cases (s.station i).stepClass <;> simp [StepClass.revived]
  · next hn => exact hn e

theorem writeMeasured_inRange {s : State} (h : s.InRange) (i : Slot) (kind : GrantKind) {o : Offsets}
    (ho : o.InRange) : (writeMeasured i kind o s).InRange := by
  unfold writeMeasured
  refine reloadMisses_inRange (inRange_setStation h i ?_) i
  have hi := h.stations i
  have : ∀ m : Measured, some (⟨kind, o⟩ : Measured) = some m → m.errors.InRange := by
    intro m e; cases e; exact ho
  cases hi
  constructor <;> assumption

/-! ### Corrections -/

theorem buildCorrection_inRange {r : Station} (h : r.InRange) (i : Slot) : (buildCorrection i r).InRange := by
  have he := h.estimate
  have ha := h.advertised
  have h1 := he.timing; have h2 := he.power; have h3 := he.frequency
  have h4 := ha.timing; have h5 := ha.power; have h6 := ha.frequency
  unfold buildCorrection Offsets.minus
  refine ⟨by dsimp only; omega, by dsimp only; omega, by dsimp only; omega, ?_, ?_⟩
  · cases r.lastVerdict <;> simp [Verdict.told]
  · dsimp only
    split
    · exact h.coefficients
    · exact setValid_none

theorem enterQueue_inRange {s : State} (h : s.InRange) (i : Slot) : (enterQueue i s).InRange := by
  unfold enterQueue
  have := inRange_setStation h i (r := { s.station i with correction := .queued, reCorrect := false })
    ((h.stations i).of_same rfl rfl rfl rfl rfl rfl rfl rfl rfl)
  refine { this with queue := ?_ }
  intro e he
  dsimp only at he
  rcases List.mem_append.mp he with he | he
  · exact h.queue e he
  · simp only [List.mem_singleton] at he
    subst he
    exact buildCorrection_inRange (h.stations i) i

theorem enterHeld_inRange {s : State} (h : s.InRange) (i : Slot) : (enterHeld i s).InRange := by
  unfold enterHeld
  have := inRange_setStation h i (r := { s.station i with correction := .held, reCorrect := false })
    ((h.stations i).of_same rfl rfl rfl rfl rfl rfl rfl rfl rfl)
  exact { this with }

theorem requestCorrection_inRange {s : State} (h : s.InRange) (i : Slot) : (requestCorrection i s).InRange := by
  unfold requestCorrection
  split
  · split
    · exact enterQueue_inRange h i
    · exact enterHeld_inRange h i
  · exact h
  · exact inRange_setStation h i ((h.stations i).of_same rfl rfl rfl rfl rfl rfl rfl rfl rfl)

theorem refill_inRange {s : State} (h : s.InRange) : (refill s).InRange := by
  unfold refill
  split
  · exact h
  · next i rest _ => exact enterQueue_inRange (s := { s with held := rest }) { h with } i

theorem clearCorrection_inRange {s : State} (h : s.InRange) (i : Slot) : (clearCorrection i s).InRange :=
  inRange_setStation h i ((h.stations i).of_same rfl rfl rfl rfl rfl rfl rfl rfl rfl)

theorem withdrawCorrection_inRange {s : State} (h : s.InRange) (i : Slot) : (withdrawCorrection i s).InRange := by
  unfold withdrawCorrection
  split
  · exact clearCorrection_inRange h i
  · exact clearCorrection_inRange (s := { s with held := s.held.filter fun j => j ≠ i }) { h with } i
  · refine refill_inRange (clearCorrection_inRange
      (s := { s with queue := s.queue.filter fun e => e.slot ≠ i }) { h with queue := ?_ } i)
    intro e he
    exact h.queue e (List.mem_of_mem_filter he)

theorem applyTaken_inRange {r : Station} {e : Correction} (h : r.InRange) (he : SetValid e.coefficients) :
    (applyTaken e r).InRange := by
  have ha := Offsets.clamped_inRange (r.advertised.plus e.adjust)
  unfold applyTaken
  dsimp only
  split
  · cases h
    constructor <;> assumption
  · next c hc =>
    have hv : (CoefficientSet.identity c.count c.main).valid = true := by
      apply identity_valid
      have := he c hc
      simp [CoefficientSet.valid] at this
      exact this.2
    have hs := setValid_some hv
    cases h
    constructor <;> assumption

theorem takeEntry_inRange {s : State} (h : s.InRange) {e : Correction} {rest : List Correction}
    (hq : s.queue = e :: rest) : (takeEntry e rest s).InRange := by
  have he : SetValid e.coefficients := (h.queue e (by simp [hq])).coefficients
  have h1 : (State.setStation { s with queue := rest } e.slot (applyTaken e (s.station e.slot))).InRange :=
    inRange_setStation (s := { s with queue := rest })
      { h with queue := fun x hx => h.queue x (by rw [hq]; exact List.mem_cons_of_mem _ hx) } e.slot
      (applyTaken_inRange (h.stations e.slot) he)
  have h2 := refill_inRange (clearCorrection_inRange h1 e.slot)
  unfold takeEntry
  dsimp only
  split
  · exact requestCorrection_inRange h2 _
  · exact h2

/-! ### Completion -/

/-- What the walk over a chain keeps: the record's ranges. -/
theorem chainStep_inRange {p : Report} {w : Walk} (hw : w.record.InRange) (hp : SetValid p.set) (d : Descriptor) :
    (chainStep p w d).record.InRange := by
  have ht (w : Walk) (hw : w.record.InRange) : (timingStep d p w).record.InRange := by
    unfold timingStep
    split
    · have he : Offsets.InRange { w.record.estimate with
          timing := clampTiming (w.record.advertised.timing + p.errors.timing) } :=
        { hw.estimate with timing := clampTiming_range _ }
      cases hw
      constructor <;> assumption
    · exact hw
  have hpw (w : Walk) (hw : w.record.InRange) : (powerStep d p w).record.InRange := by
    unfold powerStep
    split
    · have he : Offsets.InRange { w.record.estimate with
          power := clampPower (w.record.advertised.power + p.errors.power) } :=
        { hw.estimate with power := clampPower_range _ }
      cases hw
      constructor <;> assumption
    · exact hw
  have hf (w : Walk) (hw : w.record.InRange) : (frequencyStep d p w).record.InRange := by
    unfold frequencyStep
    split
    · have he : Offsets.InRange { w.record.estimate with
          frequency := clampFrequency (w.record.advertised.frequency + p.errors.frequency) } :=
        { hw.estimate with frequency := clampFrequency_range _ }
      cases hw
      constructor <;> assumption
    · exact hw
  unfold chainStep coefficientStep
  have h3 := hf _ (hpw _ (ht w hw))
  generalize frequencyStep d p (powerStep d p (timingStep d p w)) = u at h3
  split
  · dsimp only
    split
    · exact h3
    · split
      · next set hset =>
        have hv : SetValid (some set) := by
          unfold writeBackSet at hset
          split at hset
          · rw [← hset]; exact hp
          · cases hset
        cases h3
        constructor <;> assumption
      · exact h3
  · exact h3

theorem walkChain_inRange {p : Report} {r : Station} (hr : r.InRange) (hp : SetValid p.set) (steps : List Descriptor) :
    (walkChain p r steps).record.InRange := by
  unfold walkChain
  suffices ∀ w : Walk, w.record.InRange → (steps.foldl (chainStep p) w).record.InRange from this _ hr
  induction steps with
  | nil => exact fun w hw => hw
  | cons d rest ih => exact fun w hw => ih _ (chainStep_inRange hw hp d)

/-- The programme fields of a record are untouched by the walk. -/
theorem walkChain_programme (p : Report) (r : Station) (steps : List Descriptor) :
    (walkChain p r steps).record.armed = r.armed ∧ (walkChain p r steps).record.remaining = r.remaining := by
  unfold walkChain
  suffices ∀ w : Walk, (steps.foldl (chainStep p) w).record.armed = w.record.armed ∧
      (steps.foldl (chainStep p) w).record.remaining = w.record.remaining from this _
  induction steps with
  | nil => exact fun w => ⟨rfl, rfl⟩
  | cons d rest ih =>
    intro w
    have h : (chainStep p w d).record.armed = w.record.armed ∧ (chainStep p w d).record.remaining = w.record.remaining := by
      unfold chainStep coefficientStep frequencyStep powerStep timingStep
      repeat' first | split | exact ⟨rfl, rfl⟩ | dsimp only
    simp only [List.foldl_cons]
    rw [(ih _).1, (ih _).2, h.1, h.2]
    exact ⟨rfl, rfl⟩

theorem countRun_inRange {d : Descriptor} {r : Station} (hd : d.InRange) (hr : r.InRange) (ha : r.armed = true)
    (v : Verdict) : (countRun d r v).record.InRange := by
  have h1 := hr.remaining
  have h2 := hd.count
  unfold countRun
  dsimp only
  split
  · next hl =>
    cases hr
    constructor <;> first | assumption | (dsimp only; omega) | simp [ha]; omega
  · split
    · cases hr
      constructor <;> first | assumption | (dsimp only; omega) | simp
    · cases hr
      constructor <;> first | assumption | (dsimp only; omega) | simp [ha]; omega

theorem moveRecord_inRange {r : Station} (hr : r.InRange) (b : Bool) (v : Verdict) : (moveRecord b v r).InRange := by
  have h1 := hr.counting
  have h2 := hr.spent
  unfold moveRecord
  repeat' first | split | exact hr | exact hr.of_same rfl rfl rfl rfl rfl rfl rfl rfl rfl
  all_goals
    cases hr
    constructor <;> simp_all

theorem completedRecord_inRange {s : State} (h : s.InRange) {p : Report} (hp : SetValid p.set)
    (ha : (s.station p.slot).armed = true) : (completedRecord s p).record.InRange := by
  unfold completedRecord
  dsimp only
  have hw := walkChain_inRange (h.stations p.slot) hp (chainSteps s (s.station p.slot).vector)
  have hc := countRun_inRange (h.descriptors (s.station p.slot).vector) hw
    ((walkChain_programme _ _ _).1.trans ha)
    (runVerdict (walkChain p (s.station p.slot) (chainSteps s (s.station p.slot).vector)).within)
  exact (moveRecord_inRange hc _ _).of_same rfl rfl rfl rfl rfl rfl rfl rfl rfl

theorem complete_inRange {s : State} (h : s.InRange) {p : Report} (hp : SetValid p.set) : (complete p s).InRange := by
  unfold complete
  dsimp only
  split
  · next ha =>
    have h1 := inRange_setStation h p.slot (completedRecord_inRange h hp ha)
    have h2 := addAttentionIf_inRange (addAttentionIf_inRange h1 (completedRecord s p).done p.slot .programmeDone)
      p.saturated p.slot .saturated
    refine unbind_inRange ?_ _
    split
    · exact requestCorrection_inRange h2 _
    · exact h2
  · exact unbind_inRange (addAttentionIf_inRange h _ _ _) _

/-! ### Engines -/

theorem loadedEngine_inRange {r : Station} {d : Descriptor} (hr : r.InRange) (hd : d.InRange) (q : EngineRequest) :
    (loadedEngine q r d).InRange := by
  have hs := hd.shifts
  have hp := hd.passes
  unfold loadedEngine
  dsimp only
  refine ⟨setValid_some (getD_valid hr.coefficients), setValid_none, (by intro o e; cases e), ?_, ?_, Nat.zero_le _,
    Nat.zero_le _⟩
  · intro n e
    dsimp only at e
    split at e
    · injection e with e
      subst e
      unfold Descriptor.shiftFor
      split <;> omega
    · cases e
  · dsimp only
    split
    · exact hp
    · exact Nat.zero_le _

theorem grantEngine_inRange {s : State} (h : s.InRange) (e : EngineId) (q : EngineRequest) :
    (grantEngine e q s).InRange := by
  unfold grantEngine grantReaches
  exact inRange_setBurst (inRange_setEngine h e (loadedEngine_inRange (h.stations _) (h.descriptors _) q)) _
    (h.clips _)

theorem releaseEngine_inRange {s : State} (h : s.InRange) (e : EngineId) : (releaseEngine e s).InRange := by
  unfold releaseEngine
  split
  · exact inRange_setEngine h e reset_engine_inRange
  · next q rest _ => exact grantEngine_inRange (s := { s with waiting := rest }) { h with } e q

theorem completeSettling_inRange {s : State} (h : s.InRange) (e : EngineId) (all : Bool) :
    (completeSettling e all s).InRange := by
  unfold completeSettling
  split
  · exact complete_inRange h (h.engines e).checkpoint
  · exact h

theorem preemptedEngine_inRange {s : State} (h : s.InRange) : (preemptedEngine s).2.InRange := by
  unfold preemptedEngine
  dsimp only
  split
  · exact h
  · exact inRange_pick h _

theorem requestEngine_inRange {s : State} (h : s.InRange) (q : EngineRequest) : (requestEngine q s).InRange := by
  unfold requestEngine
  split
  · exact grantEngine_inRange h _ _
  · have h1 := preemptedEngine_inRange h
    split
    · next heq => rw [heq] at h1; exact grantEngine_inRange (completeSettling_inRange h1 _ _) _ _
    · exact { h with }

theorem preemptRecord_inRange {s : State} (h : s.InRange) (e : EngineId) : (preemptRecord e s).InRange :=
  releaseEngine_inRange (completeSettling_inRange h e false) e

theorem withdrawRequest_inRange {s : State} (h : s.InRange) (c : Channel) : (withdrawRequest c s).InRange := { h with }

theorem adaptTaps_length (e : Engine) (shift : Nat) (x : Exact) (k : Nat) (l : List Cplx) :
    (e.adaptTaps shift x k l).1.length = l.length := by
  induction l generalizing k with
  | nil => rfl
  | cons c rest ih => simp [Engine.adaptTaps, ih]

theorem adapt_inRange {e : Engine} (h : e.InRange) {set : CoefficientSet} (hs : set.valid = true) (x y : Cplx) :
    (e.adapt set x y).InRange := by
  unfold Engine.adapt
  split
  · exact h
  · next shift hshift =>
    dsimp only
    have hv : SetValid (some { set with taps := (e.adaptTaps shift (trainingError x y) 0 set.taps).1 }) := by
      apply setValid_some
      simp only [CoefficientSet.valid, adaptTaps_length] at hs ⊢
      exact hs
    cases h
    constructor <;> assumption

/-- The fields that an engine's ranges speak of are those of another engine in range. -/
theorem Engine.InRange.of_same {e e' : Engine} (h : e.InRange) (h1 : e'.working = e.working)
    (h2 : e'.checkpoint = e.checkpoint) (h3 : e'.errors = e.errors) (h4 : e'.shift = e.shift)
    (h5 : e'.passes = e.passes) (h6 : e'.training = e.training) (h7 : e'.passesDone = e.passesDone) : e'.InRange := by
  cases h
  constructor <;> simp_all

theorem filterSet_valid {e : Engine} (h : e.InRange) : e.filterSet.valid = true := getD_valid h.working

theorem train_inRange {e : Engine} (h : e.InRange) (x y : Cplx) : (e.train x y).InRange := by
  unfold Engine.train
  dsimp only
  have h1 : (e.take x).InRange := h.of_same rfl rfl rfl rfl rfl rfl rfl
  exact (adapt_inRange h1 (filterSet_valid h1) _ _).of_same rfl rfl rfl rfl rfl rfl rfl

theorem keep_inRange {e : Engine} (h : e.InRange) (x y : Cplx) : (e.keep x y).InRange := by
  unfold Engine.keep
  split
  · cases h
    constructor <;> first | assumption | (simp; omega)
  · exact h

theorem handle_inRange {e : Engine} (h : e.InRange) (x : Cplx) (r : Option Cplx) : (e.handle x r).InRange := by
  have ht : (e.take x).advance.InRange := h.of_same rfl rfl rfl rfl rfl rfl rfl
  unfold Engine.handle
  split
  · split
    · exact keep_inRange (train_inRange h _ _) _ _
    · exact ht
  · exact ht

theorem runPass_inRange {e : Engine} (h : e.InRange) : e.runPass.InRange := by
  unfold Engine.runPass
  suffices ∀ (l : List (Cplx × Cplx)) (x : Engine), x.InRange →
      (l.foldl (fun x p => x.train p.1 p.2) x).InRange from this _ _ h
  intro l
  induction l with
  | nil => exact fun x hx => hx
  | cons p rest ih => exact fun x hx => ih _ (train_inRange hx _ _)

/-- The engine after a pass, counted or not: the count of passes apart, it is in range. -/
theorem endPass_inRange {e : Engine} (h : e.InRange) {n : Nat} (hn : n ≤ 15) :
    Engine.InRange { e.endPass with passesDone := n } := by
  have := h.working
  cases h
  constructor <;> assumption

theorem startPass_inRange {e : Engine} (h : e.InRange) : e.startPass.InRange := h.of_same rfl rfl rfl rfl rfl rfl rfl

theorem beginSettling_inRange {e : Engine} (h : e.InRange) (now : Tick) {o : Offsets} (ho : o.InRange) :
    (e.beginSettling now o).InRange := by
  have h1 : ∀ x, some o = some x → x.InRange := by intro x e; cases e; exact ho
  have := h.working
  cases h
  constructor <;> first | assumption | exact Nat.zero_le _

/-- What a released engine held does not matter. -/
theorem releaseEngine_setEngine (e : EngineId) (x : Engine) (s : State) :
    releaseEngine e (s.setEngine e x) = releaseEngine e s := by
  unfold releaseEngine
  rw [show (s.setEngine e x).waiting = s.waiting from rfl]
  cases s.waiting with
  | nil => exact setEngine_setEngine _ _ _ _
  | cons q rest =>
    exact congrArg (grantReaches _ e) (setEngine_setEngine { s with waiting := rest } _ _ _)

/-- The count of passes is not reported. -/
theorem completeSettling_setEngine (e : EngineId) (all : Bool) (x : Engine) (s : State) :
    completeSettling e all (s.setEngine e x) = (match x.slot, x.errors with
      | some i, some o => complete (settlingReport x i o all) s
      | _, _ => s).setEngine e x := by
  unfold completeSettling
  rw [engine_setEngine_same]
  split <;> simp_all [complete_setEngine]

theorem completePass_inRange {s : State} (h : s.InRange) (e : EngineId) : (completePass e s).InRange := by
  have hr := runPass_inRange (h.engines e)
  unfold completePass
  dsimp only
  split
  · next hd =>
    refine inRange_setEngine h e (startPass_inRange ?_)
    have : (s.engine e).runPass.endPass.passes = (s.engine e).runPass.passes := rfl
    have hp := hr.passes
    exact endPass_inRange hr (n := (s.engine e).runPass.endPass.passesDone) (by omega)
  · have hx := completeSettling_inRange (inRange_setEngine h e (endPass_inRange hr (Nat.zero_le 15))) e true
    rw [completeSettling_setEngine] at hx ⊢
    rw [releaseEngine_setEngine]
    have := releaseEngine_inRange hx e
    rwa [releaseEngine_setEngine] at this

/-! ### Bursts -/

theorem releaseItem_inRange {s : State} (h : s.InRange) (x : EngineItem) : (releaseItem x s).InRange := by
  cases x
  · exact h
  · exact h
  · exact releaseEngine_inRange h _

theorem beginUnicast_inRange {s : State} (h : s.InRange) (c : Channel) (w : Window) (i : Slot) (phase : BitVec 6) :
    (beginUnicast c w i phase s).InRange := by
  unfold beginUnicast
  dsimp only
  refine requestEngine_inRange (inRange_setBurst (inRange_setStation ?_ _ ?_) _ (Nat.zero_le _)) _
  · split
    · exact preemptRecord_inRange h _
    · exact h
    · exact h
  · have : State.InRange (match (s.station i).binding with
        | .settling e => preemptRecord e s
        | .burst _ => s
        | .none => s) := by
      split
      · exact preemptRecord_inRange h _
      · exact h
      · exact h
    exact (this.stations i).of_same rfl rfl rfl rfl rfl rfl rfl rfl rfl

theorem detectByState_inRange {s : State} (h : s.InRange) (c : Channel) (phase : BitVec 6) :
    (detectByState c phase s).InRange := by
  unfold detectByState
  dsimp only
  split
  · exact h
  · exact h
  · exact inRange_setBurst h c (by exact h.clips c)
  · exact inRange_setBurst h c (by exact h.clips c)
  · split
    · exact h
    · unfold detectOpen
      split
      · exact inRange_setBurst h c (Nat.zero_le _)
      · exact h
      · split
        · exact h
        · split
          · exact beginUnicast_inRange h _ _ _ _
          · exact h

theorem detect_inRange {s : State} (h : s.InRange) (c : Channel) (phase : BitVec 6) : (detect c phase s).InRange := by
  unfold detect
  split
  exacts [h, detectByState_inRange h c phase]

theorem decideMode_inRange {s : State} (h : s.InRange) (c : Channel) (w : Window) : (decideMode c w s).InRange := by
  unfold decideMode
  dsimp only
  split
  · exact inRange_emit (inRange_setBurst h c (by exact h.clips c)) _ _
  · exact inRange_emit (inRange_setBurst (withdrawRequest_inRange h c) c (by exact h.clips c)) _ _

theorem preambleDone_inRange {s : State} (h : s.InRange) (c : Channel) : (preambleDone c s).InRange := by
  unfold preambleDone
  split
  · split
    · exact decideMode_inRange h _ _
    · exact h
  · exact h

theorem moreClips_le {n : Nat} (h : n ≤ 65535) (b : Bool) : moreClips b n ≤ 65535 := by
  unfold moreClips
  split
  · next hc => simp at hc; omega
  · exact h

theorem symbol_inRange {s : State} (h : s.InRange) (c : Channel) (x : Cplx) (r : Option Cplx) :
    (symbol c x r s).InRange := by
  unfold symbol
  split
  · exact h
  · split
    · unfold equaliseSymbol
      exact inRange_emit (inRange_setBurst (inRange_setEngine h _ (handle_inRange (h.engines _) _ _)) _
        (by exact moreClips_le (h.clips c) _)) _ _
    · exact inRange_emit h _ _
    · exact h

theorem claim_inRange {s : State} (h : s.InRange) (c : Channel) (t : Token) (v : Bool) : (claim c t v s).InRange := by
  unfold claim
  split
  · exact inRange_setBurst h c (by exact h.clips c)
  · exact h

theorem startSettling_inRange {s : State} (h : s.InRange) (e : EngineId) (i : Slot) {o : Offsets} (ho : o.InRange) :
    (startSettling e i o s).InRange := by
  unfold startSettling
  exact inRange_setStation (inRange_setEngine h e (beginSettling_inRange (h.engines e) _ ho)) i
    ((h.stations i).of_same rfl rfl rfl rfl rfl rfl rfl rfl rfl)

theorem endMaint_inRange {s : State} (h : s.InRange) (b : Burst) (i : Slot) {o : Offsets} (ho : o.InRange) :
    (endMaint b i o s).InRange := by
  unfold endMaint
  split
  · next e _ =>
    have hl (all : Bool) : (releaseEngine e (complete (liveReport (s.engine e) i o all) s)).InRange :=
      releaseEngine_inRange (complete_inRange h (h.engines e).working) e
    unfold endMaintOnEngine
    dsimp only
    split
    · split
      · exact startSettling_inRange h e i ho
      · exact hl _
    · exact hl _
  · exact complete_inRange h setValid_none

theorem endPlain_inRange {s : State} (h : s.InRange) (b : Burst) (i : Slot) : (endPlain b i s).InRange :=
  unbind_inRange (releaseItem_inRange h _) i

theorem endRecord_inRange {s : State} (h : s.InRange) (b : Burst) (w : Window) (i : Slot) (p f : Int) :
    (endRecord b w i p f s).InRange := by
  have hm := measure_inRange b w p f
  have hw := writeMeasured_inRange h i w.grant hm
  unfold endRecord
  dsimp only
  split
  · exact endPlain_inRange h b i
  · split
    · refine endPlain_inRange ?_ b i
      split
      · exact countMiss_inRange h i
      · exact h
    · split
      · exact endMaint_inRange hw b i hm
      · exact endPlain_inRange hw b i

theorem emitTrailer_inRange {s : State} (h : s.InRange) (c : Channel) (b : Burst) (o : BurstOutcome) :
    (emitTrailer c b o s).InRange := by
  unfold emitTrailer
  split
  · exact inRange_emit h _ _
  · exact h

theorem endUnicast_inRange {s : State} (h : s.InRange) (c : Channel) (w : Window) (i : Slot) (p f : Int) :
    (endUnicast c w i p f s).InRange := by
  unfold endUnicast
  dsimp only
  have h1 := emitTrailer_inRange (endRecord_inRange (inRange_setPoint h c { s.point c with grace := none })
    (s.burst c) w i p f) c (s.burst c) (s.burst c).outcome
  exact inRange_setBurst h1 c (by exact h1.clips c)

theorem Probe.InRange.refresh {p : Probe} (h : p.InRange) {c : ProbeClaim} (hc : c.errors.InRange) :
    (refreshProbe c p).InRange := by
  have := h.sightings
  refine ⟨hc, ?_, Nat.zero_le _⟩
  unfold refreshProbe
  dsimp only
  split <;> omega

theorem takeClaim_probes {s : State} (h : ProbesAgree s.probes) {c : ProbeClaim} (hc : c.errors.InRange) :
    ProbesAgree (takeClaim c s).probes := by
  unfold takeClaim
  split
  · refine ⟨?_, by simpa using h.count, ?_⟩
    · intro p hp
      simp only [List.mem_map] at hp
      obtain ⟨q, hq, rfl⟩ := hp
      split
      · exact (h.entries q hq).refresh hc
      · exact h.entries q hq
    · have : (s.probes.map fun p => if p.token = c.token then refreshProbe c p else p).map Probe.token =
          s.probes.map Probe.token := by
        rw [List.map_map]
        refine List.map_congr_left ?_
        intro p _
        simp only [Function.comp]
        split <;> rfl
      rw [this]
      exact h.distinct
  · next hn =>
    split
    · next hl =>
      refine ⟨?_, ?_, ?_⟩
      · intro p hp
        rcases List.mem_append.mp hp with hp | hp
        · exact h.entries p hp
        · simp only [List.mem_singleton] at hp
          subst hp
          exact ⟨hc, by simp [newProbe], by simp [newProbe]⟩
      · simp [probeCapacity] at hl ⊢; omega
      · simp only [List.map_append, List.map_cons, List.map_nil]
        refine List.nodup_append.mpr ⟨h.distinct, by simp, ?_⟩
        intro a ha b hb
        simp only [List.mem_singleton] at hb
        subst hb
        simp only [List.mem_map] at ha
        obtain ⟨p, hp, rfl⟩ := ha
        simp only [holdsToken, List.any_eq_true, not_exists, not_and, decide_eq_true_eq] at hn
        exact hn p hp
    · exact h

theorem takeClaim_inRange {s : State} (h : s.InRange) {c : ProbeClaim} (hc : c.errors.InRange) :
    (takeClaim c s).InRange := by
  have hp := takeClaim_probes h.probes hc
  have e := takeClaim_frame c s
  unfold takeClaim at hp ⊢
  split
  · next h1 => rw [if_pos h1] at hp; exact { h with probes := hp }
  · next h1 =>
    rw [if_neg h1] at hp
    split
    · next h2 => rw [if_pos h2] at hp; exact { h with probes := hp }
    · exact { h with }

theorem probeClaim_inRange {b : Burst} {c : Channel} {w : Window} {p f : Int} {x : ProbeClaim}
    (h : b.probeClaim c w p f = some x) : x.errors.InRange := by
  unfold Burst.probeClaim at h
  split at h
  · split at h
    · injection h with h
      subst h
      exact measure_inRange _ _ _ _
    · cases h
  · cases h

theorem endContention_inRange {s : State} (h : s.InRange) (c : Channel) (w : Window) (p f : Int) :
    (endContention c w p f s).InRange := by
  unfold endContention
  dsimp only
  refine inRange_setBurst ?_ c (h.clips c)
  split
  · next x hx => exact takeClaim_inRange (inRange_setPoint h _ _) (probeClaim_inRange hx)
  · exact inRange_setPoint h _ _

theorem burstEnd_inRange {s : State} (h : s.InRange) (c : Channel) (p f : Int) : (burstEnd c p f s).InRange := by
  unfold burstEnd
  split
  · exact endContention_inRange h _ _ _ _
  · split
    · refine endUnicast_inRange ?_ _ _ _ _ _
      split
      · exact decideMode_inRange h _ _
      · exact h
    · exact h

theorem dropUnicast_inRange {s : State} (h : s.InRange) (c : Channel) (b : Burst) (i : Slot) :
    (dropUnicast c b i s).InRange :=
  unbind_inRange (releaseItem_inRange (withdrawRequest_inRange h c) _) i

theorem missTruncated_inRange {s : State} (h : s.InRange) (w : Window) (i : Slot) : (missTruncated w i s).InRange := by
  unfold missTruncated
  split
  · exact countMiss_inRange h i
  · exact h

theorem truncate_inRange {s : State} (h : s.InRange) (c : Channel) : (truncate c s).InRange := by
  unfold truncate
  dsimp only
  split
  · next w _ _ =>
    have h1 : State.InRange (match w.kind, (s.burst c).slot with
        | .unicast, some i => dropUnicast c (s.burst c) i (missTruncated w i (endGrace c s))
        | _, _ => endGrace c s) := by
      split
      · exact dropUnicast_inRange (missTruncated_inRange (inRange_setPoint h _ _) _ _) _ _ _
      · exact inRange_setPoint h _ _
    have h2 := emitTrailer_inRange h1 c (s.burst c) .truncated
    exact inRange_setBurst h2 c (by exact h2.clips c)
  · exact h

theorem abandon_inRange {s : State} (h : s.InRange) (c : Channel) : (abandon c s).InRange := by
  unfold abandon
  dsimp only
  refine inRange_setBurst ?_ c (Nat.zero_le _)
  split
  · exact emitTrailer_inRange (dropUnicast_inRange h _ _ _) _ _ _
  · exact h

/-! ### Windows, maps and time -/

theorem openWindow_inRange {s : State} (h : s.InRange) (c : Channel) (g : Grant) : (openWindow c g s).InRange := by
  unfold openWindow
  dsimp only
  have h1 := truncate_inRange (inRange_setPoint (inRange_setMap h c { s.map c with position := nextPosition (s.map c) })
    c { s.point c with opening := none, close := some g.stop }) c
  exact inRange_setBurst h1 c (by exact h1.clips c)

theorem testOpening_inRange {s : State} (h : s.InRange) (c : Channel) : (testOpening c s).InRange := by
  unfold testOpening
  split
  · exact openWindow_inRange h _ _
  · exact inRange_setPoint h _ _

theorem missUnused_inRange {s : State} (h : s.InRange) (c : Channel) (b : Burst) : (missUnused c b s).InRange := by
  unfold missUnused
  split
  · exact h
  · split
    · split
      · exact countMiss_inRange h _
      · exact h
    · exact h

theorem sequencerClose_inRange {s : State} (h : s.InRange) (c : Channel) (close : Tick) :
    (sequencerClose c close s).InRange := by
  unfold sequencerClose
  dsimp only
  split
  · exact inRange_setBurst (missUnused_inRange h _ _) c (by exact h.clips c)
  · exact inRange_setPoint (inRange_setBurst h c (by exact h.clips c)) _ _
  · exact inRange_setPoint (inRange_setBurst h c (by exact h.clips c)) _ _
  · exact inRange_setBurst h c (by exact h.clips c)
  · exact h

theorem promote_inRange {s : State} (h : s.InRange) (c : Channel) (m : BurstMap) : (promote c m s).InRange :=
  testOpening_inRange (inRange_setPoint (inRange_setMap h _ _) _ _) c

theorem ageProbe_token {l : Nat} {c : Channel} {p q : Probe} (h : ageProbe l c p = some q) : q.token = p.token := by
  unfold ageProbe at h
  split at h
  · split at h
    · cases h; rfl
    · cases h
  · cases h; rfl

theorem ageProbes_inRange {s : State} (h : s.InRange) (c : Channel) : (ageProbes c s).InRange := by
  refine { h with probes := ⟨?_, ?_, ?_⟩ }
  · intro q hq
    simp only [ageProbes, List.mem_filterMap] at hq
    obtain ⟨p, hp, e⟩ := hq
    have := h.probes.entries p hp
    unfold ageProbe at e
    split at e
    · split at e
      · cases e
        have hl := h.probeLifetime
        exact { this with age := by dsimp only; omega }
      · cases e
    · cases e; exact this
  · exact (List.length_filterMap_le _ _).trans h.probes.count
  · have hd := h.probes.distinct
    show ((s.probes.filterMap (ageProbe s.probeLifetime c)).map Probe.token).Nodup
    have hs : List.Sublist ((s.probes.filterMap (ageProbe s.probeLifetime c)).map Probe.token)
        (s.probes.map Probe.token) := by
      generalize s.probes = l
      induction l with
      | nil => simp
      | cons p rest ih =>
        rw [List.filterMap_cons]
        split
        · exact ih.cons _
        · next q hq =>
          rw [List.map_cons, List.map_cons, ageProbe_token hq]
          exact ih.cons_cons _
    exact hd.sublist hs

theorem reachMapEnd_inRange {s : State} (h : s.InRange) (c : Channel) : (reachMapEnd c s).InRange := by
  unfold reachMapEnd
  split
  · exact ageProbes_inRange (promote_inRange h _ _) _
  · exact inRange_setPoint (inRange_setMap h _ _) _ _
  · exact inRange_setPoint (inRange_setMap h _ _) _ _

theorem take_inRange {s : State} (h : s.InRange) (x : TimeEvent) : (x.take s).InRange := by
  cases x <;> unfold TimeEvent.take
  · dsimp only
    unfold openReached
    split
    · exact openWindow_inRange h _ _
    · exact h
  · exact testOpening_inRange (sequencerClose_inRange (inRange_setPoint h _ _) _ _) _
  · exact truncate_inRange (inRange_setPoint h _ _) _
  · exact reachMapEnd_inRange h _

theorem takeIfRaised_inRange {s : State} (h : s.InRange) (x : TimeEvent) : (takeIfRaised x s).InRange := by
  unfold takeIfRaised
  split
  · exact take_inRange h x
  · exact h

theorem takeRaised_inRange {s : State} (h : s.InRange) (n : Nat) : (takeRaised n s).InRange := by
  induction n generalizing s with
  | zero => exact h
  | succ n ih =>
    unfold takeRaised
    have h1 := inRange_pick h (raisedEvents s)
    split
    · exact h
    · next x t heq => rw [heq] at h1; exact ih (take_inRange h1 x)

theorem openNow_inRange {s : State} (h : s.InRange) (n : Nat) : (openNow n s).InRange := by
  induction n generalizing s with
  | zero => exact h
  | succ n ih =>
    unfold openNow
    have h1 := inRange_pick h (openingChannels s)
    split
    · exact h
    · next c t heq => rw [heq] at h1; exact ih (testOpening_inRange h1 c)

theorem testAll_inRange {s : State} (h : s.InRange) : (testAll s).InRange :=
  openNow_inRange (inRange_setPoint (inRange_setPoint (inRange_setPoint (inRange_setPoint h _ _) _ _) _ _) _ _) _

theorem resetChannel_inRange {s : State} (h : s.InRange) (c : Channel) : (resetChannel c s).InRange :=
  inRange_setPoint (inRange_setMap (abandon_inRange h c) _ _) _ _

/-! ### Requests -/

/-- A request that is checked first leaves the ranges as they were when it is refused. -/
theorem withSid_inRange {s : State} (h : s.InRange) (v : BitVec 16) (act : Slot → State → Reply × State)
    (ha : ∀ i, (act i s).2.InRange) : (withSid v act s).2.InRange := by
  unfold withSid
  split
  · exact h
  · split
    · exact h
    · exact ha _

theorem withChannel_inRange {s : State} (h : s.InRange) (v : Byte) (act : Channel → State → Reply × State)
    (ha : ∀ c, (act c s).2.InRange) : (withChannel v act s).2.InRange := by
  unfold withChannel
  split
  · exact ha _
  · exact h

theorem armRecord_inRange {s : State} {r : Station} (h : s.InRange) (hr : r.InRange) (v : DescriptorId) :
    (armRecord s v r).InRange := by
  have hc := (h.descriptors v).count
  unfold armRecord
  cases hr
  constructor <;> first | assumption | (dsimp only; omega) | (simp; omega)

theorem disarmRecord_inRange {r : Station} (hr : r.InRange) : (disarmRecord r).InRange := by
  unfold disarmRecord
  cases hr
  constructor <;> first | assumption | (dsimp only; omega) | simp

theorem readDescriptorBlock_inRange {b : DescriptorBlock} {d : Descriptor} (h : readDescriptorBlock b = some d) :
    d.InRange := by
  unfold readDescriptorBlock at h
  split at h
  · cases h
  · split at h
    · next hc =>
      simp only [Bool.and_eq_true, decide_eq_true_eq] at hc
      injection h with h
      subst h
      have := b.count.isLt
      constructor <;> dsimp only <;> omega
    · cases h

theorem readAdmission_valid {a : AdmitBody} {x : Admission} (hw : a.coefficients.wellFormed = true)
    (h : readAdmission a = some x) : SetValid x.coefficients ∧ 1 ≤ x.missReload ∧ x.missReload ≤ 255 := by
  unfold readAdmission at h
  split at h
  · next hc =>
    split at h
    · next hm =>
      injection h with h
      subst h
      simp only [Bool.and_eq_true, decide_eq_true_eq] at hm
      have := a.missReload.isLt
      exact ⟨readCoefficientSet_valid _ hw _ hc, hm.1, by dsimp only; omega⟩
    · cases h
  · cases h

theorem admittedRecord_inRange {s : State} (h : s.InRange) {a : Admission}
    (ha : SetValid a.coefficients ∧ 1 ≤ a.missReload ∧ a.missReload ≤ 255) : (admittedRecord s a).InRange := by
  have h0 : Station.InRange { Station.reset with
      state := .training, sid := a.sid, channel := a.channel, coefficients := a.coefficients,
      missReload := a.missReload, missesRemaining := a.missReload } := by
    have := ha.1
    have := reset_station_inRange
    cases this
    constructor <;> first | assumption | (dsimp only; omega) | simp
  unfold admittedRecord admittedProgramme
  split
  · exact armRecord_inRange h h0 _
  · exact disarmRecord_inRange h0 |>.of_same rfl rfl rfl rfl rfl rfl rfl rfl rfl

theorem removeProbe_inRange {s : State} (h : s.InRange) (t : Token) : (removeProbe t s).InRange := by
  refine { h with probes := ⟨?_, ?_, ?_⟩ }
  · intro p hp
    exact h.probes.entries p (List.mem_of_mem_filter hp)
  · exact (List.length_filter_le _ _).trans h.probes.count
  · exact h.probes.distinct.sublist (List.filter_sublist.map _)

theorem admitRequest_inRange {s : State} (h : s.InRange) (body : AdmitBody) : (admitRequest body s).2.InRange := by
  unfold admitRequest
  split
  · next hw =>
    split
    · exact h
    · next a ha =>
      have h0 := admittedRecord_inRange h (readAdmission_valid hw ha)
      have h1 (i : Slot) : (writeAdmission i a s).InRange := inRange_setSidEntry (inRange_setStation h i h0) _ _
      unfold admitChecked
      split
      · exact h
      · split
        · exact h
        · next i _ =>
          split
          · exact h1 i
          · split
            · exact h
            · refine requestCorrection_inRange (removeProbe_inRange (inRange_setStation (h1 i) i ?_) _) i
              have hs := (h1 i).stations i
              have he := Offsets.clamped_inRange (Probe.errors ‹_›)
              cases hs
              constructor <;> assumption
  · exact h

theorem toInt16_range (v : BitVec 16) : -32768 ≤ v.toInt ∧ v.toInt ≤ 32767 := by
  have h1 := v.le_toInt
  have h2 := v.toInt_lt
  norm_num at h1 h2
  omega

theorem applySetting_inRange {r r' : Station} (h : r.InRange) {x : Setting}
    (hx : ∀ f, x = .coefficients f → f.wellFormed = true) (hr : applySetting r x = some r') : r'.InRange := by
  have he := h.estimate
  have ha := h.advertised
  cases x with
  | channel v =>
    simp only [applySetting] at hr
    split at hr <;> cases hr
    exact h.of_same rfl rfl rfl rfl rfl rfl rfl rfl rfl
  | timingEstimate v =>
    simp only [applySetting] at hr
    split at hr <;> cases hr
    next hv =>
    exact { h with estimate := { he with timing := (timingInRange_iff _).mp hv } }
  | powerEstimate v =>
    simp only [applySetting] at hr
    split at hr <;> cases hr
    next hv =>
    exact { h with estimate := { he with power := (powerInRange_iff _).mp hv } }
  | frequencyEstimate v =>
    simp only [applySetting] at hr
    cases hr
    exact { h with estimate := { he with frequency := toInt16_range v } }
  | advertisedTiming v =>
    simp only [applySetting] at hr
    split at hr <;> cases hr
    next hv =>
    exact { h with advertised := { ha with timing := (timingInRange_iff _).mp hv } }
  | advertisedPower v =>
    simp only [applySetting] at hr
    split at hr <;> cases hr
    next hv =>
    exact { h with advertised := { ha with power := (powerInRange_iff _).mp hv } }
  | advertisedFrequency v =>
    simp only [applySetting] at hr
    cases hr
    exact { h with advertised := { ha with frequency := toInt16_range v } }
  | coefficients f =>
    simp only [applySetting] at hr
    split at hr
    · next hset =>
      cases hr
      exact { h with coefficients := readCoefficientSet_valid _ (hx f rfl) _ hset }
    · cases hr
  | missReload v =>
    simp only [applySetting] at hr
    split at hr <;> cases hr
    next hv =>
    have := v.isLt
    exact { h with missReload := ⟨hv, by dsimp only; omega⟩ }
  | stepClass v =>
    simp only [applySetting] at hr
    split at hr <;> cases hr
    exact h.of_same rfl rfl rfl rfl rfl rfl rfl rfl rfl
  | unknown n rest =>
    simp only [applySetting] at hr
    cases hr

theorem settingsWellFormed_field {x : Setting} {l : List Setting} (h : settingsWellFormed (x :: l) = true) :
    (∀ f, x = .coefficients f → f.wellFormed = true) ∧ settingsWellFormed l = true := by
  cases x <;> simp_all [settingsWellFormed]

theorem applySettings_inRange {l : List Setting} (hl : settingsWellFormed l = true) {r r' : Station} (h : r.InRange)
    (hr : applySettings r l = some r') : r'.InRange := by
  induction l generalizing r with
  | nil => simp only [applySettings] at hr; cases hr; exact h
  | cons x rest ih =>
    have hw := settingsWellFormed_field hl
    simp only [applySettings] at hr
    split at hr
    · next r1 h1 => exact ih hw.2 (applySetting_inRange h hw.1 h1) hr
    · cases hr

theorem writeStationRequest_inRange {s : State} (h : s.InRange) (sid : BitVec 16) (l : List Setting) :
    (writeStationRequest sid l s).2.InRange := by
  unfold writeStationRequest
  split
  · next hl =>
    split
    · refine withSid_inRange h sid _ fun i => ?_
      unfold writeStationAt
      split
      · split
        · exact h
        · next r hr =>
          split
          · exact h
          · simp only [settingsSpelled, Bool.and_eq_true] at hl
            exact inRange_setStation h i (applySettings_inRange hl.1 (h.stations i) hr)
      · exact h
    · exact h
  · exact h

theorem retireRequest_inRange {s : State} (h : s.InRange) (sid : BitVec 16) : (retireRequest sid s).2.InRange := by
  unfold retireRequest
  split
  · exact h
  · next v _ =>
    split
    · exact h
    · next i _ =>
      have h1 := withdrawCorrection_inRange (inRange_setSidEntry h v none) i
      have h2 := clearAttention_inRange (inRange_setStation h1 i (disarmRecord_inRange (h1.stations i))) i
      show (retireRecord i (retireIdentity v i s)).InRange
      unfold retireRecord
      split
      · exact becomeFree_inRange h2 i
      · exact releaseEngine_inRange (becomeFree_inRange h2 i) _
      · refine inRange_setStation h2 i ?_
        have h3 := h2.stations i
        cases h3
        constructor <;> first | assumption | simp

theorem mapRequests_inRange {s : State} (h : s.InRange) (c : Channel) (m : ChannelMap) : (s.setMap c m).InRange :=
  inRange_setMap h c m

/-- Every request keeps every field in its range. -/
theorem requestEffect_inRange {s : State} (h : s.InRange) (i : Instr) : (requestEffect i s).2.InRange := by
  cases i <;> try exact h
  case status => exact { h with }
  case lookup v => exact withSid_inRange h v _ fun _ => h
  case lookupSlot v => simp only [requestEffect, lookupSlotRequest]; split <;> exact h
  case scan v k =>
    simp only [requestEffect, scanRequest]
    split
    · split <;> exact h
    · exact h
  case writeStation v l => exact writeStationRequest_inRange h v l
  case admitStation b => exact admitRequest_inRange h b
  case retire v => exact retireRequest_inRange h v
  case ackAttention v ks =>
    simp only [requestEffect, ackAttentionRequest]
    split
    · refine withSid_inRange h v _ fun i => ?_
      unfold ackAttentionAt
      split
      · exact h
      · exact dropKinds_inRange h i _
    · exact h
  case armProgramme v x =>
    refine withSid_inRange h v _ fun i => ?_
    try dsimp only
    split
    · exact h
    · exact inRange_setStation h i (armRecord_inRange h (h.stations i) _)
  case disarmProgramme v =>
    exact withSid_inRange h v _ fun i => inRange_setStation h i (disarmRecord_inRange (h.stations i))
  case takeCorrection =>
    simp only [requestEffect, takeCorrectionRequest]
    split
    · exact h
    · next hq => exact takeEntry_inRange h hq
  case probes p => simp only [requestEffect, probesRequest]; split <;> exact h
  case dismiss t =>
    simp only [requestEffect, dismissRequest]
    split
    · exact removeProbe_inRange h t
    · exact h
  case mapOpen c a b =>
    refine withChannel_inRange h c _ fun c => ?_
    try dsimp only
    split
    · exact inRange_setMap h _ _
    · exact h
  case mapGrant c a l v k =>
    refine withChannel_inRange h c _ fun c => ?_
    try dsimp only
    split
    · exact h
    · unfold appendGrant
      repeat' first | split | exact h | exact inRange_setMap h _ _
  case mapClose c =>
    refine withChannel_inRange h c _ fun c => ?_
    try dsimp only
    repeat' first | split | exact h | exact inRange_setMap h _ _ | exact promote_inRange h _ _
  case mapAbandon c => exact withChannel_inRange h c _ fun c => inRange_setMap h _ _
  case channelOn c =>
    refine withChannel_inRange h c _ fun c => ?_
    try dsimp only
    have h1 := inRange_setMap h c { s.map c with state := .starved }
    repeat' first
      | split
      | exact h
      | exact h1
      | exact inRange_setMap h1 _ _
      | exact promote_inRange h1 _ _
  case channelOff c => exact withChannel_inRange h c _ fun c => resetChannel_inRange h c
  case setDescriptor x b =>
    simp only [requestEffect, setDescriptorRequest]
    split
    · next hb => exact inRange_setDescriptor h _ (readDescriptorBlock_inRange hb)
    · exact h
  case readDescriptor x => simp only [requestEffect, readDescriptorRequest]; split <;> exact h
  case timeLoad v =>
    simp only [requestEffect, timeLoadRequest]
    split
    · exact { h with }
    · exact h
  case setParameter n v =>
    have hv := v.isLt
    simp only [requestEffect, setParameterRequest]
    split
    · exact testAll_inRange (s := { s with windowLead := v.toNat }) { h with windowLead := (by omega : v.toNat ≤ 255) }
    · split
      · next hc =>
        simp only [Bool.and_eq_true, decide_eq_true_eq] at hc
        exact { h with probeLifetime := (by omega : 1 ≤ v.toNat ∧ v.toNat ≤ 255) }
      · exact h

end Sys2Proof.Machine
end

