-- ==== Sys2Proof/Laws/Records.lean ====
section
/-! SUPPORT. What the shared operations do to the directory and to the corrections: most are quiet (they leave every
record's place in both alone), and the operations of the Correction Unit keep its lists and the records in agreement. -/

namespace Sys2Proof.Machine

/-! ### Quiet operations -/

/-- A change of a record that leaves its place in the directory and in the Correction Unit as it was; a record that is
FREE or RETIRING may also be emptied. -/
structure QuietRecord (r r' : Station) : Prop where
  served : r'.state.served = r.state.served
  sid : r.state.served = true → r'.sid = r.sid
  correction : r'.correction = r.correction ∨ (r.state.served = false ∧ r'.correction = .none)
  reCorrect : r'.reCorrect = r.reCorrect ∨ r'.reCorrect = false
  armed : r.state.served = false → r'.armed = true → r.armed = true

theorem QuietRecord.refl (r : Station) : QuietRecord r r :=
  ⟨rfl, fun _ => rfl, Or.inl rfl, Or.inl rfl, fun _ h => h⟩

theorem QuietRecord.trans {a b c : Station} (x : QuietRecord a b) (y : QuietRecord b c) : QuietRecord a c where
  served := y.served.trans x.served
  sid h := (y.sid (x.served.trans h)).trans (x.sid h)
  correction := by
    have hs := x.served
    rcases x.correction with h1 | h1 <;> rcases y.correction with h2 | h2
    · exact Or.inl (h2.trans h1)
    · exact Or.inr ⟨hs ▸ h2.1, h2.2⟩
    · exact Or.inr ⟨h1.1, h2.trans h1.2⟩
    · exact Or.inr ⟨h1.1, h2.2⟩
  reCorrect := by
    rcases x.reCorrect with h1 | h1 <;> rcases y.reCorrect with h2 | h2
    · exact Or.inl (h2.trans h1)
    · exact Or.inr h2
    · exact Or.inr (h2.trans h1)
    · exact Or.inr h2
  armed h ha := x.armed h (y.armed (x.served.trans h) ha)

/-- Every record is changed quietly, and the SID Map, the Correction Queue and the Held List are as they were. -/
structure Quiet (s t : State) : Prop where
  record : ∀ i, QuietRecord (s.station i) (t.station i)
  sidMap : t.sidMap = s.sidMap
  queue : t.queue = s.queue
  held : t.held = s.held

theorem Quiet.refl (s : State) : Quiet s s := ⟨fun _ => .refl _, rfl, rfl, rfl⟩
theorem Quiet.trans {s t u : State} (a : Quiet s t) (b : Quiet t u) : Quiet s u :=
  ⟨fun i => (a.record i).trans (b.record i), b.sidMap.trans a.sidMap, b.queue.trans a.queue, b.held.trans a.held⟩

/-- An operation that leaves the records alone is quiet. -/
theorem Quiet.of_stations {s t : State} (h : t.stations = s.stations) (h1 : t.sidMap = s.sidMap)
    (h2 : t.queue = s.queue) (h3 : t.held = s.held) : Quiet s t :=
  ⟨fun i => by simp only [State.station, h]; exact .refl _, h1, h2, h3⟩

theorem setBurst_quiet (s : State) (c : Channel) (b : Burst) : Quiet s (s.setBurst c b) := .of_stations rfl rfl rfl rfl
theorem setEngine_quiet (s : State) (e : EngineId) (x : Engine) : Quiet s (s.setEngine e x) :=
  .of_stations rfl rfl rfl rfl
theorem setMap_quiet (s : State) (c : Channel) (m : ChannelMap) : Quiet s (s.setMap c m) := .of_stations rfl rfl rfl rfl
theorem setPoint_quiet (s : State) (c : Channel) (p : TimePoints) : Quiet s (s.setPoint c p) :=
  .of_stations rfl rfl rfl rfl
theorem emit_quiet (s : State) (c : Channel) (x : SymbolItem) : Quiet s (s.emit c x) := .of_stations rfl rfl rfl rfl
theorem withdrawRequest_quiet (c : Channel) (s : State) : Quiet s (withdrawRequest c s) := .of_stations rfl rfl rfl rfl
theorem ageProbes_quiet (c : Channel) (s : State) : Quiet s (ageProbes c s) := .of_stations rfl rfl rfl rfl
theorem endGrace_quiet (c : Channel) (s : State) : Quiet s (endGrace c s) := .of_stations rfl rfl rfl rfl

theorem quiet_setStation {s : State} {i : Slot} {r : Station} (h : QuietRecord (s.station i) r) :
    Quiet s (s.setStation i r) :=
  ⟨fun j => by
    rw [station_setStation]
    split
    · next e => subst e; exact h
    · exact .refl _, rfl, rfl, rfl⟩

theorem addAttention_quiet (i : Slot) (k : AttentionKind) (s : State) : Quiet s (addAttention i k s) := by
  unfold addAttention
  dsimp only
  split
  · exact .refl s
  · have h := quiet_setStation (s := s) (i := i)
      (r := { s.station i with attention := (s.station i).attention.put true k })
      ⟨rfl, fun _ => rfl, Or.inl rfl, Or.inl rfl, fun _ x => x⟩
    exact ⟨h.record, rfl, rfl, rfl⟩

theorem dropAttention_quiet (i : Slot) (k : AttentionKind) (s : State) : Quiet s (dropAttention i k s) := by
  unfold dropAttention
  dsimp only
  split
  · have h := quiet_setStation (s := s) (i := i)
      (r := { s.station i with attention := (s.station i).attention.put false k })
      ⟨rfl, fun _ => rfl, Or.inl rfl, Or.inl rfl, fun _ x => x⟩
    exact ⟨h.record, rfl, rfl, rfl⟩
  · exact .refl s

theorem addAttentionIf_quiet (b : Bool) (i : Slot) (k : AttentionKind) (s : State) :
    Quiet s (addAttentionIf b i k s) := by
  cases b
  · exact .refl s
  · exact addAttention_quiet i k s

theorem clearAttention_quiet (i : Slot) (s : State) : Quiet s (clearAttention i s) :=
  ((dropAttention_quiet i _ s).trans (dropAttention_quiet i _ _)).trans (dropAttention_quiet i _ _)

theorem dropKinds_quiet (i : Slot) (ks : List AttentionKind) (s : State) : Quiet s (dropKinds i ks s) := by
  induction ks generalizing s with
  | nil => exact .refl s
  | cons k rest ih => exact (dropAttention_quiet i k s).trans (ih _)

/-- A FREE or RETIRING record may become FREE. -/
theorem becomeFree_quiet {i : Slot} {s : State} (h : (s.station i).state.served = false) :
    Quiet s (becomeFree i s) := by
  have hc := clearAttention_quiet i s
  refine hc.trans (quiet_setStation ?_)
  have hs := (hc.record i).served.trans h
  exact ⟨hs.symm ▸ rfl, fun e => absurd e (by rw [hs]; decide), Or.inr ⟨hs, rfl⟩, Or.inr rfl, fun _ e => by cases e⟩

theorem unbind_quiet (i : Slot) (s : State) : Quiet s (unbind i s) := by
  unfold unbind
  dsimp only
  split
  · next h => exact becomeFree_quiet (by rw [h]; rfl)
  · exact quiet_setStation ⟨rfl, fun _ => rfl, Or.inl rfl, Or.inl rfl, fun _ x => x⟩

theorem countMiss_quiet (i : Slot) (s : State) : Quiet s (countMiss i s) := by
  unfold countMiss
  dsimp only
  split
  · next hst =>
    split
    · exact quiet_setStation ⟨rfl, fun _ => rfl, Or.inl rfl, Or.inl rfl, fun _ x => x⟩
    · refine Quiet.trans (quiet_setStation ?_) (addAttention_quiet i _ _)
      refine ⟨?_, fun _ => rfl, Or.inl rfl, Or.inl rfl, fun _ x => x⟩
      simp only [Bool.or_eq_true, decide_eq_true_eq] at hst
      rcases hst with h | h <;> rw [h] <;> rfl
  · exact .refl s

theorem reloadMisses_quiet (i : Slot) (s : State) : Quiet s (reloadMisses i s) := by
  unfold reloadMisses
  refine quiet_setStation ⟨?_, fun _ => rfl, Or.inl rfl, Or.inl rfl, fun _ x => x⟩
  dsimp only
  split
  · next h => rw [h]; cases (s.station i).stepClass <;> rfl
  · rfl

theorem writeMeasured_quiet (i : Slot) (kind : GrantKind) (o : Offsets) (s : State) :
    Quiet s (writeMeasured i kind o s) := by
  unfold writeMeasured
  refine Quiet.trans (quiet_setStation ?_) (reloadMisses_quiet i _)
  exact ⟨rfl, fun _ => rfl, Or.inl rfl, Or.inl rfl, fun _ x => x⟩

/-! ### Agreement under quiet operations -/

theorem State.DirectoryAgrees.of_quiet {s t : State} (h : s.DirectoryAgrees) (q : Quiet s t) : t.DirectoryAgrees := by
  constructor
  · intro v i
    have hr := q.record i
    have : t.sidEntry v = s.sidEntry v := by simp only [State.sidEntry, q.sidMap]
    rw [this, h.named v i, hr.served]
    constructor
    · intro ⟨a, b⟩; exact ⟨a, (hr.sid a).trans b⟩
    · intro ⟨a, b⟩; exact ⟨a, (hr.sid a).symm.trans b⟩
  · intro i hi
    have hr := q.record i
    rw [hr.served] at hi
    rw [hr.sid hi]
    exact h.sids i hi

/-- The Correction Unit's lists agree with the records, with room for `n` entries. -/
structure CorrectionsAt (n : Nat) (s : State) : Prop where
  queued : ∀ i, (s.station i).correction = .queued ↔ i ∈ s.queue.map Correction.slot
  held : ∀ i, (s.station i).correction = .held ↔ i ∈ s.held
  queueDistinct : (s.queue.map Correction.slot).Nodup
  heldDistinct : s.held.Nodup
  queueLength : s.queue.length ≤ n
  full : s.held ≠ [] → s.queue.length = n
  sids : ∀ e ∈ s.queue, e.sid = (s.station e.slot).sid
  flag : ∀ i, (s.station i).reCorrect = true → (s.station i).correction = .queued
  unserved : ∀ i, (s.station i).state.served = false →
    (s.station i).correction = .none ∧ (s.station i).armed = false

theorem correctionsAgree_iff (s : State) : s.CorrectionsAgree ↔ CorrectionsAt 32 s :=
  ⟨fun h => { h with }, fun h => { h with }⟩

theorem CorrectionsAt.of_quiet {n : Nat} {s t : State} (h : CorrectionsAt n s) (q : Quiet s t) : CorrectionsAt n t := by
  have hc (i : Slot) : (t.station i).correction = (s.station i).correction := by
    rcases (q.record i).correction with e | ⟨e, e'⟩
    · exact e
    · rw [e', (h.unserved i e).1]
  have hserved (i : Slot) (hq : (s.station i).correction ≠ .none) : (s.station i).state.served = true := by
    cases hs : (s.station i).state.served with
    | true => rfl
    | false => exact absurd (h.unserved i hs).1 hq
  constructor
  · intro i; rw [hc, q.queue]; exact h.queued i
  · intro i; rw [hc, q.held]; exact h.held i
  · rw [q.queue]; exact h.queueDistinct
  · rw [q.held]; exact h.heldDistinct
  · rw [q.queue]; exact h.queueLength
  · rw [q.held, q.queue]; exact h.full
  · intro e he
    rw [q.queue] at he
    have hq := (h.queued e.slot).mpr (List.mem_map_of_mem he)
    rw [(q.record e.slot).sid (hserved _ (by rw [hq]; decide))]
    exact h.sids e he
  · intro i hi
    rw [hc]
    rcases (q.record i).reCorrect with e | e
    · exact h.flag i (e.symm.trans hi)
    · rw [e] at hi; cases hi
  · intro i hi
    rw [(q.record i).served] at hi
    refine ⟨by rw [hc]; exact (h.unserved i hi).1, ?_⟩
    cases ha : (t.station i).armed with
    | false => rfl
    | true => rw [← (q.record i).armed hi ha]; exact (h.unserved i hi).2.symm ▸ rfl

theorem State.CorrectionsAgree.of_quiet {s t : State} (h : s.CorrectionsAgree) (q : Quiet s t) : t.CorrectionsAgree :=
  (correctionsAgree_iff t).mpr (((correctionsAgree_iff s).mp h).of_quiet q)

theorem State.RecordsAgree.of_quiet {s t : State} (h : s.RecordsAgree) (q : Quiet s t) : t.RecordsAgree :=
  ⟨h.directory.of_quiet q, h.corrections.of_quiet q⟩

theorem CorrectionsAt.served {n : Nat} {s : State} (h : CorrectionsAt n s) {i : Slot}
    (hi : (s.station i).correction ≠ .none ∨ (s.station i).armed = true) : (s.station i).state.served = true := by
  cases hs : (s.station i).state.served with
  | true => rfl
  | false =>
    have := h.unserved i hs
    rcases hi with hi | hi
    · exact absurd this.1 hi
    · rw [this.2] at hi; cases hi

/-! ### The operations of the Correction Unit -/

/-- Every record keeps its state, its SID and its programme, and the SID Map stands as it was: all that the operations
of the Correction Unit leave of a record's place in the directory. -/
structure SameIdentity (s t : State) : Prop where
  state : ∀ i, (t.station i).state = (s.station i).state
  sid : ∀ i, (t.station i).sid = (s.station i).sid
  armed : ∀ i, (t.station i).armed = (s.station i).armed
  sidMap : t.sidMap = s.sidMap

theorem SameIdentity.refl (s : State) : SameIdentity s s := ⟨fun _ => rfl, fun _ => rfl, fun _ => rfl, rfl⟩
theorem SameIdentity.trans {s t u : State} (a : SameIdentity s t) (b : SameIdentity t u) : SameIdentity s u :=
  ⟨fun i => (b.state i).trans (a.state i), fun i => (b.sid i).trans (a.sid i), fun i => (b.armed i).trans (a.armed i),
    b.sidMap.trans a.sidMap⟩

theorem State.DirectoryAgrees.of_same {s t : State} (h : s.DirectoryAgrees) (e : SameIdentity s t) :
    t.DirectoryAgrees := by
  constructor
  · intro v i
    have : t.sidEntry v = s.sidEntry v := by simp only [State.sidEntry, e.sidMap]
    rw [this, h.named v i, e.state, e.sid]
  · intro i hi
    rw [e.state] at hi
    rw [e.sid]
    exact h.sids i hi

theorem identity_setStation {s : State} {i : Slot} {r : Station} (h1 : r.state = (s.station i).state)
    (h2 : r.sid = (s.station i).sid) (h3 : r.armed = (s.station i).armed) : SameIdentity s (s.setStation i r) := by
  refine ⟨fun j => ?_, fun j => ?_, fun j => ?_, rfl⟩ <;> rw [station_setStation] <;> split <;>
    first | rfl | (next e => subst e; assumption)

theorem enterQueue_identity (i : Slot) (s : State) : SameIdentity s (enterQueue i s) := by
  have h := identity_setStation (s := s) (i := i) (r := { s.station i with correction := .queued, reCorrect := false })
    rfl rfl rfl
  exact ⟨h.state, h.sid, h.armed, rfl⟩

theorem enterHeld_identity (i : Slot) (s : State) : SameIdentity s (enterHeld i s) := by
  have h := identity_setStation (s := s) (i := i) (r := { s.station i with correction := .held, reCorrect := false })
    rfl rfl rfl
  exact ⟨h.state, h.sid, h.armed, rfl⟩

theorem requestCorrection_identity (i : Slot) (s : State) : SameIdentity s (requestCorrection i s) := by
  unfold requestCorrection
  split
  · split
    · exact enterQueue_identity i s
    · exact enterHeld_identity i s
  · exact .refl s
  · exact identity_setStation rfl rfl rfl

theorem refill_identity (s : State) : SameIdentity s (refill s) := by
  unfold refill
  split
  · exact .refl s
  · next i rest _ =>
    have h := enterQueue_identity i { s with held := rest }
    exact ⟨h.state, h.sid, h.armed, h.sidMap⟩

theorem clearCorrection_identity (i : Slot) (s : State) : SameIdentity s (clearCorrection i s) :=
  identity_setStation rfl rfl rfl

theorem withdrawCorrection_identity (i : Slot) (s : State) : SameIdentity s (withdrawCorrection i s) := by
  unfold withdrawCorrection
  split
  · exact clearCorrection_identity i s
  · have h := clearCorrection_identity i { s with held := s.held.filter fun j => j ≠ i }
    exact ⟨h.state, h.sid, h.armed, h.sidMap⟩
  · have h := clearCorrection_identity i { s with queue := s.queue.filter fun e => e.slot ≠ i }
    exact SameIdentity.trans ⟨h.state, h.sid, h.armed, h.sidMap⟩ (refill_identity _)

theorem takeEntry_identity (e : Correction) (rest : List Correction) (s : State) :
    SameIdentity s (takeEntry e rest s) := by
  have h0 : SameIdentity s (State.setStation { s with queue := rest } e.slot (applyTaken e (s.station e.slot))) := by
    have h := identity_setStation (s := { s with queue := rest }) (i := e.slot)
      (r := applyTaken e (s.station e.slot)) (by unfold applyTaken; dsimp only; split <;> rfl)
      (by unfold applyTaken; dsimp only; split <;> rfl) (by unfold applyTaken; dsimp only; split <;> rfl)
    exact ⟨h.state, h.sid, h.armed, h.sidMap⟩
  have h1 := (h0.trans (clearCorrection_identity e.slot _)).trans (refill_identity _)
  unfold takeEntry
  dsimp only
  split
  · exact h1.trans (requestCorrection_identity _ _)
  · exact h1

/-- A record in NONE or HELD enters the queue, and leaves the Held List if it stood there. -/
theorem enterQueue_at {n : Nat} {s t : State} {i : Slot} (h : CorrectionsAt n s)
    (hs : t.stations = (s.setStation i { s.station i with correction := .queued, reCorrect := false }).stations)
    (hq : t.queue = s.queue ++ [buildCorrection i (s.station i)]) (hh : ∀ j, j ∈ t.held ↔ j ∈ s.held ∧ j ≠ i)
    (hd : t.held.Nodup) (hi : (s.station i).correction ≠ .queued) (hserved : (s.station i).state.served = true)
    (hfull : t.held ≠ [] → s.queue.length = n) : CorrectionsAt (n + 1) t := by
  have hst (j : Slot) : t.station j =
      if i = j then { s.station i with correction := .queued, reCorrect := false } else s.station j := by
    rw [← station_setStation]
    simp only [State.station, hs]
  have hni : i ∉ s.queue.map Correction.slot := fun hm => hi ((h.queued i).mpr hm)
  constructor
  · intro j
    rw [hst, hq, List.map_append, List.mem_append]
    split
    · next e => subst e; simp [buildCorrection]
    · next e =>
      rw [h.queued]
      simp only [List.map_cons, List.map_nil, List.mem_singleton, buildCorrection]
      exact ⟨Or.inl, fun x => x.resolve_right (fun y => e y.symm)⟩
  · intro j
    rw [hst, hh]
    split
    · next e => subst e; simp
    · next e => rw [h.held]; exact ⟨fun x => ⟨x, fun y => e y.symm⟩, fun x => x.1⟩
  · rw [hq, List.map_append]
    refine List.nodup_append.mpr ⟨h.queueDistinct, by simp, ?_⟩
    intro a ha b hb
    simp only [List.map_cons, List.map_nil, List.mem_singleton, buildCorrection] at hb
    subst hb
    intro e
    subst e
    exact hni ha
  · exact hd
  · rw [hq, List.length_append]
    have := h.queueLength
    simp only [List.length_cons, List.length_nil]
    omega
  · intro hne
    rw [hq, List.length_append, hfull hne]
    rfl
  · intro e he
    rw [hq] at he
    rcases List.mem_append.mp he with he | he
    · have hm : e.slot ∈ s.queue.map Correction.slot := List.mem_map_of_mem he
      rw [hst, if_neg (fun x : i = e.slot => hni (x ▸ hm))]
      exact h.sids e he
    · simp only [List.mem_singleton] at he
      subst he
      rw [hst, if_pos (show i = (buildCorrection i (s.station i)).slot from rfl)]
      rfl
  · intro j
    rw [hst]
    split
    · intro x; cases x
    · exact h.flag j
  · intro j
    rw [hst]
    split
    · intro x; dsimp only at x; rw [hserved] at x; cases x
    · exact h.unserved j

/-- A freed place of the queue goes to the head of the Held List, if there is one. -/
theorem refill_at {s : State} (h : CorrectionsAt 31 s) : CorrectionsAt 32 (refill s) := by
  unfold refill
  split
  · next he =>
    exact { h with
      queueLength := Nat.le_succ_of_le h.queueLength
      full := fun hne => absurd he hne }
  · next i rest he =>
    have hd := h.heldDistinct
    rw [he] at hd
    have hheld : (s.station i).correction = .held := (h.held i).mpr (by rw [he]; simp)
    refine enterQueue_at (i := i) h rfl rfl ?_ (List.nodup_cons.mp hd).2 (by rw [hheld]; decide)
      (h.served (Or.inl (by rw [hheld]; decide))) ?_
    · intro j
      show j ∈ rest ↔ _
      rw [he, List.mem_cons]
      constructor
      · intro hj
        exact ⟨Or.inr hj, fun e => (List.nodup_cons.mp hd).1 (e ▸ hj)⟩
      · intro ⟨hj, hne⟩; exact hj.resolve_left hne
    · intro _
      exact h.full (by rw [he]; simp)

/-- A correction request for a record in TRAINING, LOCKED or STALE keeps the lists in agreement. -/
theorem requestCorrection_agrees {s : State} {i : Slot} (h : s.CorrectionsAgree)
    (hs : (s.station i).state.served = true) : (requestCorrection i s).CorrectionsAgree := by
  rw [correctionsAgree_iff] at h ⊢
  unfold requestCorrection
  split
  · next hc =>
    have hnh : i ∉ s.held := fun hm => by have := (h.held i).mpr hm; rw [hc] at this; cases this
    have hnq : i ∉ s.queue.map Correction.slot := fun hm => by
      have := (h.queued i).mpr hm; rw [hc] at this; cases this
    split
    · next hlt =>
      have he : s.held = [] := by
        by_contra hne
        have := h.full hne
        unfold queueCapacity at hlt
        omega
      have hx : CorrectionsAt (s.queue.length + 1) (enterQueue i s) := by
        refine enterQueue_at (n := s.queue.length) (i := i) (s := s)
          { h with queueLength := le_refl _, full := fun _ => rfl } rfl rfl ?_ ?_ (by rw [hc]; decide) hs (fun _ => rfl)
        · intro j
          show j ∈ s.held ↔ _
          rw [he]; simp
        · exact h.heldDistinct
      refine { hx with queueLength := ?_, full := ?_ }
      · have := hx.queueLength
        unfold queueCapacity at hlt
        omega
      · intro hne
        exact absurd he hne
    · next hge =>
      have hlen : s.queue.length = 32 := by
        have := h.queueLength
        unfold queueCapacity at hge
        omega
      have hst (j : Slot) : (enterHeld i s).station j =
          if i = j then { s.station i with correction := .held, reCorrect := false } else s.station j := by
        rw [← station_setStation]; rfl
      constructor
      · intro j
        rw [hst]
        split
        · next e =>
          subst e
          exact ⟨fun x => (by cases x), fun x => absurd x hnq⟩
        · exact h.queued j
      · intro j
        show _ ↔ j ∈ s.held ++ [i]
        rw [hst, List.mem_append]
        split
        · next e => subst e; simp
        · next e => rw [h.held]; simp only [List.mem_singleton]
                    exact ⟨Or.inl, fun x => x.resolve_right (fun y => e y.symm)⟩
      · exact h.queueDistinct
      · refine List.nodup_append.mpr ⟨h.heldDistinct, by simp, ?_⟩
        intro a ha b hb
        simp only [List.mem_singleton] at hb
        subst hb
        intro e
        subst e
        exact hnh ha
      · exact h.queueLength
      · intro _; exact hlen
      · intro e he
        have hm : e.slot ∈ s.queue.map Correction.slot := List.mem_map_of_mem he
        rw [hst, if_neg (fun x : i = e.slot => hnq (x ▸ hm))]
        exact h.sids e he
      · intro j
        rw [hst]
        split
        · intro x; cases x
        · exact h.flag j
      · intro j
        rw [hst]
        split
        · intro x; dsimp only at x; rw [hs] at x; cases x
        · exact h.unserved j
  · exact h
  · next hc =>
    have hst (j : Slot) : (s.setStation i { s.station i with reCorrect := true }).station j =
        if i = j then { s.station i with reCorrect := true } else s.station j := station_setStation _ _ _ _
    refine { h with
      queued := fun j => ?_, held := fun j => ?_, sids := fun e he => ?_, flag := fun j => ?_
      unserved := fun j => ?_ }
    · rw [hst]; split
      · next e => subst e; exact h.queued i
      · exact h.queued j
    · rw [hst]; split
      · next e => subst e; exact h.held i
      · exact h.held j
    · rw [hst]; split
      · next x => rw [x]; exact h.sids e he
      · exact h.sids e he
    · rw [hst]; split
      · intro _; exact hc
      · exact h.flag j
    · rw [hst]; split
      · next e => subst e; exact h.unserved i
      · exact h.unserved j

/-- A record's entry leaves the queue and the record goes to NONE: room for one entry more. -/
theorem removed_at {s t : State} {i : Slot} {r : Station} (h : s.CorrectionsAgree)
    (hq : (s.station i).correction = .queued) (hst : t.stations = (s.setStation i r).stations)
    (hc : r.correction = .none) (hf : r.reCorrect = false) (hstate : r.state = (s.station i).state)
    (hm : ∀ e, e ∈ t.queue → e ∈ s.queue ∧ e.slot ≠ i) (hm' : ∀ e, e ∈ s.queue → e.slot ≠ i → e ∈ t.queue)
    (hd : (t.queue.map Correction.slot).Nodup) (hl : t.queue.length + 1 = s.queue.length) (hh : t.held = s.held) :
    CorrectionsAt 31 t := by
  have hst' (j : Slot) : t.station j = if i = j then r else s.station j := by
    rw [← station_setStation]
    simp only [State.station, hst]
  have hserved : (s.station i).state.served = true :=
    ((correctionsAgree_iff s).mp h).served (Or.inl (by rw [hq]; decide))
  constructor
  · intro j
    rw [hst']
    split
    · next e =>
      subst e
      rw [hc]
      refine ⟨fun x => (by cases x), fun x => ?_⟩
      obtain ⟨e, he, he'⟩ := List.mem_map.mp x
      exact absurd he' (hm e he).2
    · next hne =>
      rw [h.queued]
      constructor
      · intro x
        obtain ⟨e, he, he'⟩ := List.mem_map.mp x
        exact List.mem_map.mpr ⟨e, hm' e he (fun y => hne (y ▸ he'.symm ▸ rfl)), he'⟩
      · intro x
        obtain ⟨e, he, he'⟩ := List.mem_map.mp x
        exact List.mem_map.mpr ⟨e, (hm e he).1, he'⟩
  · intro j
    rw [hst', hh]
    split
    · next e =>
      subst e
      rw [hc]
      refine ⟨fun x => (by cases x), fun x => ?_⟩
      have := (h.held i).mpr x
      rw [hq] at this
      cases this
    · exact h.held j
  · exact hd
  · rw [hh]; exact h.heldDistinct
  · have := h.queueLength; omega
  · intro hne
    rw [hh] at hne
    have := h.full hne
    omega
  · intro e he
    rw [hst', if_neg (fun x => (hm e he).2 x.symm)]
    exact h.sids e (hm e he).1
  · intro j
    rw [hst']
    split
    · intro x; rw [hf] at x; cases x
    · exact h.flag j
  · intro j
    rw [hst']
    split
    · intro x; rw [hstate, hserved] at x; cases x
    · exact h.unserved j

theorem filter_length_of_nodup {l : List Correction} {i : Slot} (hd : (l.map Correction.slot).Nodup)
    (hm : i ∈ l.map Correction.slot) : (l.filter fun e => e.slot ≠ i).length + 1 = l.length := by
  induction l with
  | nil => cases hm
  | cons x rest ih =>
    simp only [List.map_cons, List.nodup_cons, List.mem_cons] at hd hm
    by_cases hx : x.slot = i
    · have : (rest.filter fun e => e.slot ≠ i) = rest := by
        apply List.filter_eq_self.mpr
        intro e he
        simp only [ne_eq, decide_not, Bool.not_eq_true', decide_eq_false_iff_not]
        intro y
        exact hd.1 (hx ▸ y ▸ List.mem_map_of_mem he)
      rw [List.filter_cons_of_neg (by simp [hx]), this]
      rfl
    · rw [List.filter_cons_of_pos (by simp [hx]), List.length_cons, List.length_cons,
        ih hd.2 (hm.resolve_left (fun y => hx y.symm))]

/-- Withdrawal keeps the lists in agreement and leaves the record in NONE. -/
theorem withdrawCorrection_agrees {s : State} (i : Slot) (h : s.CorrectionsAgree) :
    (withdrawCorrection i s).CorrectionsAgree ∧ ((withdrawCorrection i s).station i).correction = .none ∧
      ((withdrawCorrection i s).station i).reCorrect = false := by
  unfold withdrawCorrection
  split
  · next hc =>
    refine ⟨h.of_quiet (quiet_setStation ⟨rfl, fun _ => rfl, Or.inl hc.symm, Or.inr rfl, fun _ x => x⟩), ?_, ?_⟩ <;>
      simp [clearCorrection]
  · next hc =>
    refine ⟨?_, by simp [clearCorrection], by simp [clearCorrection]⟩
    have hst (j : Slot) : (clearCorrection i { s with held := s.held.filter fun j => j ≠ i }).station j =
        if i = j then { s.station i with correction := .none, reCorrect := false } else s.station j := by
      unfold clearCorrection
      rw [station_setStation]
      rfl
    have hserved : (s.station i).state.served = true :=
      ((correctionsAgree_iff s).mp h).served (Or.inl (by rw [hc]; decide))
    constructor
    · intro j
      rw [hst]
      split
      · next e =>
        subst e
        refine ⟨fun x => (by cases x), fun x => ?_⟩
        have := (h.queued i).mpr x
        rw [hc] at this
        cases this
      · exact h.queued j
    · intro j
      rw [hst]
      show _ ↔ j ∈ s.held.filter fun j => j ≠ i
      rw [List.mem_filter]
      split
      · next e => subst e; simp
      · next e =>
        rw [h.held]
        simp only [ne_eq, decide_not, Bool.not_eq_true', decide_eq_false_iff_not]
        exact ⟨fun x => ⟨x, fun y => e y.symm⟩, fun x => x.1⟩
    · exact h.queueDistinct
    · exact h.heldDistinct.filter _
    · exact h.queueLength
    · intro hne
      refine h.full fun e => hne ?_
      show (s.held.filter fun j => j ≠ i) = []
      rw [e]
      rfl
    · intro e he
      rw [hst]
      split
      · next x => rw [x]; exact h.sids e he
      · exact h.sids e he
    · intro j
      rw [hst]
      split
      · intro x; cases x
      · exact h.flag j
    · intro j
      rw [hst]
      split
      · intro x; dsimp only at x; rw [hserved] at x; cases x
      · exact h.unserved j
  · next hc =>
    have hm := (h.queued i).mp hc
    have h31 : CorrectionsAt 31 (clearCorrection i { s with queue := s.queue.filter fun e => e.slot ≠ i }) := by
      refine removed_at (i := i) (r := { s.station i with correction := .none, reCorrect := false }) h hc rfl rfl rfl rfl
        ?_ ?_ ?_ (filter_length_of_nodup h.queueDistinct hm) rfl
      · intro e he
        have he : e ∈ s.queue.filter fun e => e.slot ≠ i := he
        rw [List.mem_filter] at he
        exact ⟨he.1, by simpa using he.2⟩
      · intro e he hne
        show e ∈ s.queue.filter fun e => e.slot ≠ i
        rw [List.mem_filter]
        exact ⟨he, by simpa using hne⟩
      · exact h.queueDistinct.sublist (List.filter_sublist.map _)
    have hr := refill_at h31
    refine ⟨(correctionsAgree_iff _).mpr hr, ?_⟩
    have hi : ((clearCorrection i { s with queue := s.queue.filter fun e => e.slot ≠ i }).station i).correction = .none ∧
        ((clearCorrection i { s with queue := s.queue.filter fun e => e.slot ≠ i }).station i).reCorrect = false := by
      simp [clearCorrection]
    generalize clearCorrection i { s with queue := s.queue.filter fun e => e.slot ≠ i } = t at h31 hi
    unfold refill
    split
    · exact hi
    · next j rest hj =>
      have hne : j ≠ i := by
        intro e
        have := (h31.held j).mpr (by rw [hj]; simp)
        rw [e, hi.1] at this
        cases this
      have : (enterQueue j { t with held := rest }).station i = t.station i := by
        show (State.setStation { t with held := rest } j _).station i = t.station i
        rw [station_setStation, if_neg hne]
        rfl
      rw [this]
      exact hi

/-- TAKE CORRECTION keeps the lists in agreement. -/
theorem takeEntry_agrees {s : State} {e : Correction} {rest : List Correction} (h : s.CorrectionsAgree)
    (hq : s.queue = e :: rest) : (takeEntry e rest s).CorrectionsAgree := by
  have hd := h.queueDistinct
  rw [hq, List.map_cons, List.nodup_cons] at hd
  have hc : (s.station e.slot).correction = .queued := (h.queued e.slot).mpr (by rw [hq]; simp)
  have hne (x : Correction) (hx : x ∈ rest) : x.slot ≠ e.slot := fun y => hd.1 (y ▸ List.mem_map_of_mem hx)
  have h31 : CorrectionsAt 31 (clearCorrection e.slot
      (State.setStation { s with queue := rest } e.slot (applyTaken e (s.station e.slot)))) := by
    refine removed_at (i := e.slot)
      (r := { applyTaken e (s.station e.slot) with correction := .none, reCorrect := false }) h hc ?_ rfl rfl ?_ ?_ ?_
      hd.2 (by rw [hq]; rfl) rfl
    · unfold clearCorrection
      simp [State.setStation, State.station]
    · unfold applyTaken; dsimp only; split <;> rfl
    · intro x hx
      exact ⟨by rw [hq]; exact List.mem_cons_of_mem _ hx, hne x hx⟩
    · intro x hx hxe
      rw [hq] at hx
      rcases List.mem_cons.mp hx with rfl | hx
      · exact absurd rfl hxe
      · exact hx
  have hr := (correctionsAgree_iff _).mpr (refill_at h31)
  have hserved : (s.station e.slot).state.served = true :=
    ((correctionsAgree_iff s).mp h).served (Or.inl (by rw [hc]; decide))
  unfold takeEntry
  dsimp only
  split
  · refine requestCorrection_agrees hr ?_
    rw [(refill_identity _).state, (clearCorrection_identity e.slot _).state, station_setStation_same]
    unfold applyTaken
    dsimp only
    split <;> exact hserved
  · exact hr

/-! ### Completions, engines and bursts -/

theorem walkChain_quiet (p : Report) (r : Station) (steps : List Descriptor) :
    (walkChain p r steps).record.state = r.state ∧ (walkChain p r steps).record.sid = r.sid ∧
      (walkChain p r steps).record.correction = r.correction ∧
      (walkChain p r steps).record.reCorrect = r.reCorrect ∧ (walkChain p r steps).record.armed = r.armed := by
  unfold walkChain
  suffices ∀ w : Walk, (steps.foldl (chainStep p) w).record.state = w.record.state ∧
      (steps.foldl (chainStep p) w).record.sid = w.record.sid ∧
      (steps.foldl (chainStep p) w).record.correction = w.record.correction ∧
      (steps.foldl (chainStep p) w).record.reCorrect = w.record.reCorrect ∧
      (steps.foldl (chainStep p) w).record.armed = w.record.armed from this _
  induction steps with
  | nil => exact fun w => ⟨rfl, rfl, rfl, rfl, rfl⟩
  | cons d rest ih =>
    intro w
    have h : (chainStep p w d).record.state = w.record.state ∧ (chainStep p w d).record.sid = w.record.sid ∧
        (chainStep p w d).record.correction = w.record.correction ∧
        (chainStep p w d).record.reCorrect = w.record.reCorrect ∧
        (chainStep p w d).record.armed = w.record.armed := by
      unfold chainStep coefficientStep frequencyStep powerStep timingStep
      repeat' first | split | exact ⟨rfl, rfl, rfl, rfl, rfl⟩ | dsimp only
    have hi := ih (chainStep p w d)
    simp only [List.foldl_cons]
    exact ⟨hi.1.trans h.1, hi.2.1.trans h.2.1, hi.2.2.1.trans h.2.2.1, hi.2.2.2.1.trans h.2.2.2.1,
      hi.2.2.2.2.trans h.2.2.2.2⟩

theorem countRun_quiet (d : Descriptor) (r : Station) (v : Verdict) : QuietRecord r (countRun d r v).record := by
  unfold countRun
  dsimp only
  repeat' first | split | exact ⟨rfl, fun _ => rfl, Or.inl rfl, Or.inl rfl, fun _ x => by first | exact x | cases x⟩

theorem moveRecord_quiet (b : Bool) (v : Verdict) (r : Station) : QuietRecord r (moveRecord b v r) := by
  unfold moveRecord
  repeat' first
    | split
    | exact .refl _
    | (refine ⟨?_, fun _ => rfl, Or.inl rfl, Or.inl rfl, fun _ x => x⟩; simp_all [RecordState.served])

/-- The step class a completion leaves: COARSE with the mark set; FINE on a clean SETTLED run, but for a LOCKED record,
which keeps its class on every clean run (R8, R145, R147). -/
theorem moveRecord_stepClass (b : Bool) (v : Verdict) {r : Station} (hf : r.state ≠ .free) (hr : r.state ≠ .retiring) :
    (moveRecord b v r).stepClass =
      if b then .coarse else if v = .settled ∧ r.state ≠ .locked then .fine else r.stepClass := by
  unfold moveRecord
  cases e : r.state <;> cases b <;> cases v <;> simp_all

/-- Where a LOCKED record has the class FINE that its entry to LOCKED gave it, the class a completion leaves depends on
the mark and the verdict alone (the last sentence of R171, log entry 20). -/
theorem moveRecord_stepClass_of_fine (b : Bool) (v : Verdict) {r : Station} (hf : r.state ≠ .free)
    (hr : r.state ≠ .retiring) (hl : r.state = .locked → r.stepClass = .fine) :
    (moveRecord b v r).stepClass = if b then .coarse else if v = .settled then .fine else r.stepClass := by
  rw [moveRecord_stepClass b v hf hr]
  by_cases h : r.state = .locked <;> simp [h, hl]

theorem completedRecord_quiet (s : State) (p : Report) :
    QuietRecord (s.station p.slot) (completedRecord s p).record := by
  unfold completedRecord
  dsimp only
  have hw := walkChain_quiet p (s.station p.slot) (chainSteps s (s.station p.slot).vector)
  generalize walkChain p (s.station p.slot) (chainSteps s (s.station p.slot).vector) = w at hw
  have h0 : QuietRecord (s.station p.slot) w.record :=
    ⟨by rw [hw.1], fun _ => hw.2.1, Or.inl hw.2.2.1, Or.inl hw.2.2.2.1, fun _ x => by rw [← hw.2.2.2.2]; exact x⟩
  have h1 := (h0.trans (countRun_quiet (s.descriptor (s.station p.slot).vector) w.record (runVerdict w.within))).trans
    (moveRecord_quiet p.saturated
      (countRun (s.descriptor (s.station p.slot).vector) w.record (runVerdict w.within)).verdict _)
  exact h1.trans ⟨rfl, fun _ => rfl, Or.inl rfl, Or.inl rfl, fun _ x => x⟩

theorem complete_agrees {s : State} (h : s.RecordsAgree) (p : Report) : (complete p s).RecordsAgree := by
  unfold complete
  dsimp only
  split
  · next ha =>
    have hq := (quiet_setStation (completedRecord_quiet s p)).trans
      ((addAttentionIf_quiet (completedRecord s p).done p.slot .programmeDone _).trans
        (addAttentionIf_quiet p.saturated p.slot .saturated _))
    have h1 := h.of_quiet hq
    refine State.RecordsAgree.of_quiet ?_ (unbind_quiet _ _)
    split
    · refine ⟨h1.directory.of_same (requestCorrection_identity _ _), requestCorrection_agrees h1.corrections ?_⟩
      rw [(hq.record p.slot).served]
      exact ((correctionsAgree_iff s).mp h.corrections).served (Or.inr ha)
    · exact h1
  · exact h.of_quiet ((addAttentionIf_quiet _ _ _ _).trans (unbind_quiet _ _))

theorem completeSettling_agrees {s : State} (h : s.RecordsAgree) (e : EngineId) (all : Bool) :
    (completeSettling e all s).RecordsAgree := by
  unfold completeSettling
  split
  · exact complete_agrees h _
  · exact h

theorem releaseEngine_quiet (e : EngineId) (s : State) : Quiet s (releaseEngine e s) := by
  unfold releaseEngine
  split <;> exact .of_stations rfl rfl rfl rfl

theorem pick_quiet {α : Type} (s : State) (l : List α) : Quiet s (s.pick l).2 := by
  unfold State.pick
  split
  · exact .refl s
  · exact .refl s
  · exact .of_stations rfl rfl rfl rfl

theorem preemptedEngine_quiet (s : State) : Quiet s (preemptedEngine s).2 := by
  unfold preemptedEngine
  dsimp only
  split
  · exact .refl s
  · exact pick_quiet s _

theorem requestEngine_agrees {s : State} (h : s.RecordsAgree) (q : EngineRequest) :
    (requestEngine q s).RecordsAgree := by
  unfold requestEngine
  split
  · exact h.of_quiet (.of_stations rfl rfl rfl rfl)
  · have h1 := h.of_quiet (preemptedEngine_quiet s)
    split
    · next heq =>
      rw [heq] at h1
      exact (completeSettling_agrees h1 _ _).of_quiet (.of_stations rfl rfl rfl rfl)
    · exact h.of_quiet (.of_stations rfl rfl rfl rfl)

theorem preemptRecord_agrees {s : State} (h : s.RecordsAgree) (e : EngineId) : (preemptRecord e s).RecordsAgree :=
  (completeSettling_agrees h e false).of_quiet (releaseEngine_quiet e _)

theorem completePass_agrees {s : State} (h : s.RecordsAgree) (e : EngineId) : (completePass e s).RecordsAgree := by
  unfold completePass
  dsimp only
  split
  · exact h.of_quiet (.of_stations rfl rfl rfl rfl)
  · refine State.RecordsAgree.of_quiet ?_ (releaseEngine_quiet _ _)
    exact completeSettling_agrees (h.of_quiet (setEngine_quiet s e _)) e true

theorem releaseItem_quiet (x : EngineItem) (s : State) : Quiet s (releaseItem x s) := by
  cases x
  · exact .refl s
  · exact .refl s
  · exact releaseEngine_quiet _ s

theorem emitTrailer_quiet (c : Channel) (b : Burst) (o : BurstOutcome) (s : State) : Quiet s (emitTrailer c b o s) := by
  unfold emitTrailer
  split
  · exact emit_quiet _ _ _
  · exact .refl s

theorem detectByState_agrees {s : State} (h : s.RecordsAgree) (c : Channel) (phase : BitVec 6) :
    (detectByState c phase s).RecordsAgree := by
  have hb (b : Burst) : (s.setBurst c b).RecordsAgree := h.of_quiet (setBurst_quiet s c b)
  unfold detectByState
  dsimp only
  split
  · exact h
  · exact h
  · exact hb _
  · exact hb _
  · split
    · exact h
    · unfold detectOpen
      split
      · exact hb _
      · exact h
      · split
        · exact h
        · split
          · unfold beginUnicast
            dsimp only
            refine requestEngine_agrees ?_ _
            have hq (t : State) (ht : t.RecordsAgree) (i : Slot) (b : Burst) :
                ((t.setStation i { t.station i with binding := .burst c }).setBurst c b).RecordsAgree := by
              refine ht.of_quiet (Quiet.trans (quiet_setStation ?_) (setBurst_quiet _ _ _))
              exact ⟨rfl, fun _ => rfl, Or.inl rfl, Or.inl rfl, fun _ x => x⟩
            refine hq _ ?_ _ _
            split
            · exact preemptRecord_agrees h _
            · exact h
            · exact h
          · exact h

theorem detect_agrees {s : State} (h : s.RecordsAgree) (c : Channel) (phase : BitVec 6) :
    (detect c phase s).RecordsAgree := by
  unfold detect
  split
  exacts [h, detectByState_agrees h c phase]

theorem decideMode_quiet (c : Channel) (w : Window) (s : State) : Quiet s (decideMode c w s) := by
  unfold decideMode
  dsimp only
  split
  · exact (setBurst_quiet _ _ _).trans (emit_quiet _ _ _)
  · exact ((withdrawRequest_quiet c s).trans (setBurst_quiet _ _ _)).trans (emit_quiet _ _ _)

theorem preambleDone_quiet (c : Channel) (s : State) : Quiet s (preambleDone c s) := by
  unfold preambleDone
  split
  · split
    · exact decideMode_quiet _ _ _
    · exact .refl s
  · exact .refl s

theorem symbol_quiet (c : Channel) (x : Cplx) (r : Option Cplx) (s : State) : Quiet s (symbol c x r s) := by
  unfold symbol
  split
  · exact .refl s
  · split
    · exact ((setEngine_quiet _ _ _).trans (setBurst_quiet _ _ _)).trans (emit_quiet _ _ _)
    · exact emit_quiet _ _ _
    · exact .refl s

theorem claim_quiet (c : Channel) (t : Token) (v : Bool) (s : State) : Quiet s (claim c t v s) := by
  unfold claim
  split
  · exact setBurst_quiet _ _ _
  · exact .refl s

theorem endMaint_agrees {s : State} (h : s.RecordsAgree) (b : Burst) (i : Slot) (o : Offsets) :
    (endMaint b i o s).RecordsAgree := by
  unfold endMaint
  split
  · have hl (e : EngineId) (p : Report) : (releaseEngine e (complete p s)).RecordsAgree :=
      (complete_agrees h p).of_quiet (releaseEngine_quiet _ _)
    unfold endMaintOnEngine
    dsimp only
    split
    · split
      · unfold startSettling
        refine State.RecordsAgree.of_quiet (s := s.setEngine _ _) ?_ (quiet_setStation ?_)
        · exact h.of_quiet (setEngine_quiet _ _ _)
        · exact ⟨rfl, fun _ => rfl, Or.inl rfl, Or.inl rfl, fun _ x => x⟩
      · exact hl _ _
    · exact hl _ _
  · exact complete_agrees h _

theorem endPlain_quiet (b : Burst) (i : Slot) (s : State) : Quiet s (endPlain b i s) :=
  (releaseItem_quiet _ s).trans (unbind_quiet i _)

theorem endRecord_agrees {s : State} (h : s.RecordsAgree) (b : Burst) (w : Window) (i : Slot) (p f : Int) :
    (endRecord b w i p f s).RecordsAgree := by
  unfold endRecord
  dsimp only
  split
  · exact h.of_quiet (endPlain_quiet _ _ _)
  · split
    · refine State.RecordsAgree.of_quiet ?_ (endPlain_quiet _ _ _)
      split
      · exact h.of_quiet (countMiss_quiet _ _)
      · exact h
    · split
      · exact endMaint_agrees (h.of_quiet (writeMeasured_quiet _ _ _ _)) _ _ _
      · exact h.of_quiet ((writeMeasured_quiet _ _ _ _).trans (endPlain_quiet _ _ _))

theorem takeClaim_quiet (x : ProbeClaim) (s : State) : Quiet s (takeClaim x s) := by
  unfold takeClaim
  repeat' first | split | exact .of_stations rfl rfl rfl rfl

theorem burstEnd_agrees {s : State} (h : s.RecordsAgree) (c : Channel) (p f : Int) : (burstEnd c p f s).RecordsAgree := by
  have hg := endGrace_quiet c s
  unfold burstEnd
  split
  · unfold endContention
    dsimp only
    refine h.of_quiet (Quiet.trans ?_ (setBurst_quiet _ _ _))
    split
    · exact hg.trans (takeClaim_quiet _ _)
    · exact hg
  · split
    · have hu (t : State) (ht : t.RecordsAgree) (w : Window) (i : Slot) : (endUnicast c w i p f t).RecordsAgree := by
        unfold endUnicast
        dsimp only
        refine State.RecordsAgree.of_quiet (endRecord_agrees ?_ _ _ _ _ _)
          (Quiet.trans (emitTrailer_quiet _ _ _ _) (setBurst_quiet _ _ _))
        exact ht.of_quiet (endGrace_quiet c t)
      refine hu _ ?_ _ _
      split
      · exact h.of_quiet (decideMode_quiet _ _ _)
      · exact h
    · exact h

theorem truncate_quiet (c : Channel) (s : State) : Quiet s (truncate c s) := by
  have hg := endGrace_quiet c s
  have hw := withdrawRequest_quiet c
  unfold truncate
  dsimp only
  split
  · refine Quiet.trans (Quiet.trans ?_ (emitTrailer_quiet _ _ _ _)) (setBurst_quiet _ _ _)
    split
    · unfold dropUnicast
      refine ((Quiet.trans (hg.trans ?_) (hw _)).trans (releaseItem_quiet _ _)).trans (unbind_quiet _ _)
      unfold missTruncated
      split
      · exact countMiss_quiet _ _
      · exact .refl _
    · exact hg
  · exact .refl s

theorem abandon_quiet (c : Channel) (s : State) : Quiet s (abandon c s) := by
  have hw := withdrawRequest_quiet c
  unfold abandon
  dsimp only
  refine Quiet.trans ?_ (setBurst_quiet _ _ _)
  split
  · unfold dropUnicast
    exact (((hw _).trans (releaseItem_quiet _ _)).trans (unbind_quiet _ _)).trans (emitTrailer_quiet _ _ _ _)
  · exact .refl s

/-! ### Windows, maps and time -/

theorem openWindow_quiet (c : Channel) (g : Grant) (s : State) : Quiet s (openWindow c g s) := by
  unfold openWindow
  dsimp only
  exact (((setMap_quiet _ _ _).trans (setPoint_quiet _ _ _)).trans (truncate_quiet c _)).trans (setBurst_quiet _ _ _)

theorem testOpening_quiet (c : Channel) (s : State) : Quiet s (testOpening c s) := by
  unfold testOpening
  split
  · exact openWindow_quiet _ _ _
  · exact setPoint_quiet _ _ _

theorem missUnused_quiet (c : Channel) (b : Burst) (s : State) : Quiet s (missUnused c b s) := by
  unfold missUnused
  split
  · exact .refl s
  · split
    · split
      · exact countMiss_quiet _ _
      · exact .refl s
    · exact .refl s

theorem sequencerClose_quiet (c : Channel) (close : Tick) (s : State) : Quiet s (sequencerClose c close s) := by
  unfold sequencerClose
  dsimp only
  split
  · exact (missUnused_quiet _ _ _).trans (setBurst_quiet _ _ _)
  · exact (setBurst_quiet _ _ _).trans (setPoint_quiet _ _ _)
  · exact (setBurst_quiet _ _ _).trans (setPoint_quiet _ _ _)
  · exact setBurst_quiet _ _ _
  · exact .refl s

theorem promote_quiet (c : Channel) (m : BurstMap) (s : State) : Quiet s (promote c m s) :=
  ((setMap_quiet _ _ _).trans (setPoint_quiet _ _ _)).trans (testOpening_quiet c _)

theorem take_quiet (x : TimeEvent) (s : State) : Quiet s (x.take s) := by
  cases x <;> unfold TimeEvent.take
  · dsimp only
    unfold openReached
    split
    · exact openWindow_quiet _ _ _
    · exact .refl s
  · exact ((setPoint_quiet _ _ _).trans (sequencerClose_quiet _ _ _)).trans (testOpening_quiet _ _)
  · exact (endGrace_quiet _ _).trans (truncate_quiet _ _)
  · dsimp only
    unfold reachMapEnd
    split
    · exact (promote_quiet _ _ _).trans (ageProbes_quiet _ _)
    · exact (setMap_quiet _ _ _).trans (setPoint_quiet _ _ _)
    · exact (setMap_quiet _ _ _).trans (setPoint_quiet _ _ _)

theorem takeIfRaised_quiet (x : TimeEvent) (s : State) : Quiet s (takeIfRaised x s) := by
  unfold takeIfRaised
  split
  · exact take_quiet x s
  · exact .refl s

theorem takeRaised_quiet (n : Nat) (s : State) : Quiet s (takeRaised n s) := by
  induction n generalizing s with
  | zero => exact .refl s
  | succ n ih =>
    unfold takeRaised
    have h := pick_quiet s (raisedEvents s)
    split
    · exact .refl s
    · next x t heq => rw [heq] at h; exact (h.trans (take_quiet x t)).trans (ih _)

theorem openNow_quiet (n : Nat) (s : State) : Quiet s (openNow n s) := by
  induction n generalizing s with
  | zero => exact .refl s
  | succ n ih =>
    unfold openNow
    have h := pick_quiet s (openingChannels s)
    split
    · exact .refl s
    · next c t heq => rw [heq] at h; exact (h.trans (testOpening_quiet c t)).trans (ih _)

theorem setOpening_quiet (c : Channel) (s : State) : Quiet s (setOpening c s) := setPoint_quiet _ _ _

theorem testAll_quiet (s : State) : Quiet s (testAll s) := by
  unfold testAll
  exact ((((setOpening_quiet 0 s).trans (setOpening_quiet 1 _)).trans (setOpening_quiet 2 _)).trans
    (setOpening_quiet 3 _)).trans (openNow_quiet 4 _)

theorem resetChannel_quiet (c : Channel) (s : State) : Quiet s (resetChannel c s) :=
  ((abandon_quiet c s).trans (setMap_quiet _ _ _)).trans (setPoint_quiet _ _ _)

theorem resetWith_recordsAgree (straps : Straps) : (State.resetWith straps).RecordsAgree := by
  constructor
  · constructor
    · intro v i
      rw [sidEntry_resetWith, station_resetWith]
      simp [Station.reset, RecordState.served]
    · intro i
      rw [station_resetWith]
      simp [Station.reset, RecordState.served]
  · constructor <;> intros <;> simp_all [State.resetWith, Station.reset, State.station]

/-! ### Requests -/

theorem withSid_agrees {s : State} (h : s.RecordsAgree) (v : BitVec 16) (act : Slot → State → Reply × State)
    (ha : ∀ i, (s.station i).state.served = true → (act i s).2.RecordsAgree) : (withSid v act s).2.RecordsAgree := by
  unfold withSid
  split
  · exact h
  · split
    · exact h
    · next i hi => exact ha i ((h.directory.named _ i).mp hi).1

theorem applySetting_quiet {r r' : Station} {x : Setting} (h : applySetting r x = some r') :
    r'.state = r.state ∧ r'.sid = r.sid ∧ r'.correction = r.correction ∧ r'.reCorrect = r.reCorrect ∧
      r'.armed = r.armed := by
  cases x <;> simp only [applySetting] at h <;> (try split at h) <;> cases h <;> exact ⟨rfl, rfl, rfl, rfl, rfl⟩

theorem applySettings_quiet {l : List Setting} {r r' : Station} (h : applySettings r l = some r') :
    r'.state = r.state ∧ r'.sid = r.sid ∧ r'.correction = r.correction ∧ r'.reCorrect = r.reCorrect ∧
      r'.armed = r.armed := by
  induction l generalizing r with
  | nil => simp only [applySettings] at h; cases h; exact ⟨rfl, rfl, rfl, rfl, rfl⟩
  | cons x rest ih =>
    simp only [applySettings] at h
    split at h
    · next r1 h1 =>
      have a := applySetting_quiet h1
      have b := ih h
      exact ⟨b.1.trans a.1, b.2.1.trans a.2.1, b.2.2.1.trans a.2.2.1, b.2.2.2.1.trans a.2.2.2.1,
        b.2.2.2.2.trans a.2.2.2.2⟩
    · cases h

theorem admittedRecord_fields (s : State) (a : Admission) :
    (admittedRecord s a).state = .training ∧ (admittedRecord s a).sid = a.sid ∧
      (admittedRecord s a).correction = .none ∧ (admittedRecord s a).reCorrect = false := by
  unfold admittedRecord admittedProgramme
  split <;> exact ⟨rfl, rfl, rfl, rfl⟩

theorem readSid_range {v : BitVec 16} {x : Sid} (h : readSid v = some x) : x ≠ 0 ∧ x ≠ 4095 := by
  unfold readSid at h
  split at h
  · split at h
    · cases h
    · next hn =>
      injection h with h
      subst h
      simp only [Bool.or_eq_true, decide_eq_true_eq, not_or] at hn
      constructor <;> intro e <;> have := congrArg Fin.val e <;> simp at this <;> omega
  · cases h

theorem readAdmission_sid {b : AdmitBody} {a : Admission} (h : readAdmission b = some a) : a.sid ≠ 0 ∧ a.sid ≠ 4095 := by
  unfold readAdmission at h
  split at h
  · next hs _ _ _ =>
    split at h
    · injection h with h
      subst h
      exact readSid_range hs
    · cases h
  · cases h

/-- ADMIT on a FREE slot with an empty entry keeps the directory and the corrections in agreement (R22). -/
theorem writeAdmission_agrees {s : State} (h : s.RecordsAgree) {i : Slot} {a : Admission}
    (hfree : (s.station i).state = .free) (hempty : s.sidEntry a.sid = none) (hs : a.sid ≠ 0 ∧ a.sid ≠ 4095) :
    (writeAdmission i a s).RecordsAgree ∧ ((writeAdmission i a s).station i).state.served = true := by
  have hf := admittedRecord_fields s a
  have hst (j : Slot) : (writeAdmission i a s).station j = if i = j then admittedRecord s a else s.station j := by
    unfold writeAdmission
    rw [setSidEntry_station, station_setStation]
  have hen (v : Sid) : (writeAdmission i a s).sidEntry v = if a.sid = v then some i else s.sidEntry v := by
    unfold writeAdmission
    rw [sidEntry_setSidEntry]
    rfl
  have hun : (s.station i).state.served = false := by rw [hfree]; rfl
  have hc := h.corrections.unserved i hun
  have hserved : ((writeAdmission i a s).station i).state.served = true := by
    rw [hst, if_pos rfl, hf.1]; rfl
  have hne (v : Sid) (j : Slot) (hv : s.sidEntry v = some j) : j ≠ i := by
    intro e
    have := ((h.directory.named v j).mp hv).1
    rw [e, hun] at this
    cases this
  have hnq : i ∉ s.queue.map Correction.slot := fun hm => by
    have := (h.corrections.queued i).mpr hm; rw [hc.1] at this; cases this
  have hnh : i ∉ s.held := fun hm => by have := (h.corrections.held i).mpr hm; rw [hc.1] at this; cases this
  refine ⟨⟨⟨?_, ?_⟩, ?_⟩, hserved⟩
  · intro v j
    rw [hen, hst]
    by_cases hv : a.sid = v
    · rw [if_pos hv]
      by_cases hj : i = j
      · rw [if_pos hj, hf.1, hf.2.1, hj]
        exact ⟨fun _ => ⟨rfl, hv⟩, fun _ => rfl⟩
      · rw [if_neg hj]
        constructor
        · intro e; injection e with e; exact absurd e hj
        · intro x
          have := (h.directory.named v j).mpr x
          rw [← hv, hempty] at this
          cases this
    · rw [if_neg hv]
      by_cases hj : i = j
      · rw [if_pos hj, hf.1, hf.2.1]
        constructor
        · intro x; exact absurd hj.symm (hne v j x)
        · intro x; exact absurd x.2 hv
      · rw [if_neg hj]
        exact h.directory.named v j
  · intro j
    rw [hst]
    split
    · intro _; rw [hf.2.1]; exact hs
    · exact h.directory.sids j
  · have hcor := h.corrections
    refine { hcor with queued := fun j => ?_, held := fun j => ?_, sids := fun e he => ?_, flag := fun j => ?_
                       unserved := fun j => ?_ }
    · rw [hst]
      show _ ↔ j ∈ s.queue.map Correction.slot
      split
      · next e => subst e; rw [hf.2.2.1]; exact ⟨fun x => (by cases x), fun x => absurd x hnq⟩
      · exact hcor.queued j
    · rw [hst]
      show _ ↔ j ∈ s.held
      split
      · next e => subst e; rw [hf.2.2.1]; exact ⟨fun x => (by cases x), fun x => absurd x hnh⟩
      · exact hcor.held j
    · have hm : e.slot ∈ s.queue.map Correction.slot := List.mem_map_of_mem he
      rw [hst, if_neg (fun x : i = e.slot => hnq (x ▸ hm))]
      exact hcor.sids e he
    · rw [hst]
      split
      · intro x; rw [hf.2.2.2] at x; cases x
      · exact hcor.flag j
    · rw [hst]
      split
      · intro x; rw [hf.1] at x; cases x
      · exact hcor.unserved j

theorem removeProbe_quiet (t : Token) (s : State) : Quiet s (removeProbe t s) := .of_stations rfl rfl rfl rfl

theorem lowestFree_free {s : State} {i : Slot} (h : lowestFree s = some i) : (s.station i).state = .free := by
  unfold lowestFree at h
  have := List.find?_some h
  simpa using this

theorem admitRequest_agrees {s : State} (h : s.RecordsAgree) (b : AdmitBody) : (admitRequest b s).2.RecordsAgree := by
  unfold admitRequest
  split
  · split
    · exact h
    · next a ha =>
      unfold admitChecked
      split
      · exact h
      · next he =>
        split
        · exact h
        · next i hi =>
          have h1 := writeAdmission_agrees h (lowestFree_free hi) (by simpa using he) (readAdmission_sid ha)
          split
          · exact h1.1
          · split
            · exact h
            · next p _ =>
              have hq : Quiet (writeAdmission i a s) (removeProbe p.token ((writeAdmission i a s).setStation i
                  { (writeAdmission i a s).station i with estimate := p.errors.clamped })) := by
                refine Quiet.trans (quiet_setStation ?_) (removeProbe_quiet _ _)
                exact ⟨rfl, fun _ => rfl, Or.inl rfl, Or.inl rfl, fun _ x => x⟩
              have h2 := h1.1.of_quiet hq
              refine ⟨h2.directory.of_same (requestCorrection_identity _ _),
                requestCorrection_agrees h2.corrections ?_⟩
              rw [(hq.record i).served]
              exact h1.2
  · exact h

/-- RETIRE keeps the directory and the corrections in agreement (R172). -/
theorem retireRequest_agrees {s : State} (h : s.RecordsAgree) (sid : BitVec 16) :
    (retireRequest sid s).2.RecordsAgree := by
  unfold retireRequest
  split
  · exact h
  · next v _ =>
    split
    · exact h
    · next i hi =>
      show (retireRecord i (retireIdentity v i s)).RecordsAgree
      have hv := (h.directory.named v i).mp hi
      have h0 : (s.setSidEntry v none).CorrectionsAgree := { h.corrections with }
      have hw := withdrawCorrection_agrees i h0
      have hid := withdrawCorrection_identity i (s.setSidEntry v none)
      have hserved : ((withdrawCorrection i (s.setSidEntry v none)).station i).state.served = true := by
        rw [hid.state]; exact hv.1
      unfold retireIdentity
      dsimp only
      generalize withdrawCorrection i (s.setSidEntry v none) = t at hw hid hserved
      have hq1 : Quiet t (clearAttention i (t.setStation i (disarmRecord (t.station i)))) := by
        refine Quiet.trans (quiet_setStation ?_) (clearAttention_quiet _ _)
        exact ⟨rfl, fun _ => rfl, Or.inl rfl, Or.inl rfl, fun _ x => by cases x⟩
      have hc1 := hw.1.of_quiet hq1
      have harm : ((clearAttention i (t.setStation i (disarmRecord (t.station i)))).station i).armed = false := by
        have (k : AttentionKind) (u : State) (hu : (u.station i).armed = false) :
            ((dropAttention i k u).station i).armed = false := by
          unfold dropAttention
          dsimp only
          split
          · show ((State.setStation u i _).station i).armed = false
            rw [station_setStation_same]
            exact hu
          · exact hu
        unfold clearAttention
        exact this _ _ (this _ _ (this _ _ (by rw [station_setStation_same]; rfl)))
      have hcor1 : ((clearAttention i (t.setStation i (disarmRecord (t.station i)))).station i).correction = .none := by
        rcases (hq1.record i).correction with e | ⟨_, e⟩
        · rw [e]; exact hw.2.1
        · exact e
      generalize clearAttention i (t.setStation i (disarmRecord (t.station i))) = u at hq1 hc1 harm hcor1
      have hqs := hq1.record
      have hmap : u.sidMap = (s.setSidEntry v none).sidMap := hq1.sidMap.trans hid.sidMap
      -- what remains to be seen of the last step: every other record stands, and this one is FREE or RETIRING
      have fin (x : State) (hm : x.sidMap = u.sidMap) (hqq : x.queue = u.queue) (hhh : x.held = u.held)
          (ho : ∀ j, j ≠ i → QuietRecord (u.station j) (x.station j))
          (hu : (x.station i).state.served = false) (ha : (x.station i).armed = false)
          (hcx : (x.station i).correction = .none) (hf : (x.station i).reCorrect = false) : x.RecordsAgree := by
        have hquiet : Quiet (u.setStation i { u.station i with state := .retiring, reCorrect := false }) x := by
          refine ⟨fun j => ?_, hm, hqq, hhh⟩
          rw [station_setStation]
          split
          · next e =>
            subst e
            exact ⟨hu, fun y => (by cases y), Or.inl (hcx.trans hcor1.symm), Or.inr hf,
              fun _ y => (by rw [ha] at y; cases y)⟩
          · next e => exact ho j (fun y => e y.symm)
        refine State.RecordsAgree.of_quiet ?_ hquiet
        have hst (j : Slot) : (u.setStation i { u.station i with state := .retiring, reCorrect := false }).station j =
            if i = j then { u.station i with state := .retiring, reCorrect := false } else u.station j :=
          station_setStation _ _ _ _
        have hnq : i ∉ u.queue.map Correction.slot := fun y => by
          have := (hc1.queued i).mpr y; rw [hcor1] at this; cases this
        constructor
        · constructor
          · intro w j
            have hen : (u.setStation i { u.station i with state := .retiring, reCorrect := false }).sidEntry w =
                if v = w then none else s.sidEntry w := by
              show u.sidMap[w] = _
              rw [hmap]
              exact sidEntry_setSidEntry s v w none
            rw [hen, hst]
            by_cases hj : i = j
            · rw [if_pos hj]
              constructor
              · intro y
                split at y
                · cases y
                · next hvw =>
                  rw [← hj] at y
                  have := (h.directory.named w i).mp y
                  exact absurd (hv.2.symm.trans this.2) hvw
              · intro y; cases y.1
            · rw [if_neg hj]
              have hsrv : (u.station j).state.served = (s.station j).state.served := by
                rw [(hqs j).served, hid.state]; rfl
              have hsid : (s.station j).state.served = true → (u.station j).sid = (s.station j).sid := by
                intro y
                rw [(hqs j).sid (by rw [hid.state]; exact y), hid.sid]; rfl
              rw [hsrv]
              by_cases hvw : v = w
              · rw [if_pos hvw]
                constructor
                · intro y; cases y
                · intro y
                  rw [hsid y.1] at y
                  have := (h.directory.named w j).mpr y
                  rw [← hvw, hi] at this
                  injection this with this
                  exact absurd this hj
              · rw [if_neg hvw, h.directory.named w j]
                constructor
                · intro y; exact ⟨y.1, (hsid y.1).trans y.2⟩
                · intro y; exact ⟨y.1, (hsid y.1).symm.trans y.2⟩
          · intro j
            rw [hst]
            split
            · intro y; cases y
            · intro y
              have hsrv : (u.station j).state.served = (s.station j).state.served := by
                rw [(hqs j).served, hid.state]; rfl
              rw [(hqs j).sid (by rw [hid.state]; exact hsrv ▸ y), hid.sid]
              exact h.directory.sids j (hsrv ▸ y)
        · refine { hc1 with queued := fun j => ?_, held := fun j => ?_, sids := fun e he => ?_, flag := fun j => ?_
                            unserved := fun j => ?_ }
          · rw [hst]; split
            · next e => subst e; exact hc1.queued i
            · exact hc1.queued j
          · rw [hst]; split
            · next e => subst e; exact hc1.held i
            · exact hc1.held j
          · have hm : e.slot ∈ u.queue.map Correction.slot := List.mem_map_of_mem he
            rw [hst, if_neg (fun y : i = e.slot => hnq (y ▸ hm))]
            exact hc1.sids e he
          · rw [hst]; split
            · intro y; cases y
            · exact hc1.flag j
          · rw [hst]; split
            · intro _; exact ⟨hcor1, harm⟩
            · exact hc1.unserved j
      have hfree : (becomeFree i u).station i = .reset := by unfold becomeFree; rw [station_setStation_same]
      have hca := clearAttention_quiet i u
      have hother (j : Slot) (hj : j ≠ i) : QuietRecord (u.station j) ((becomeFree i u).station j) := by
        unfold becomeFree
        rw [station_setStation_ne _ _ _ _ (Ne.symm hj)]
        exact hca.record j
      unfold retireRecord
      split
      · exact fin _ hca.sidMap hca.queue hca.held hother (by rw [hfree]; rfl) (by rw [hfree]; rfl) (by rw [hfree]; rfl)
          (by rw [hfree]; rfl)
      · refine State.RecordsAgree.of_quiet ?_ (releaseEngine_quiet _ _)
        exact fin _ hca.sidMap hca.queue hca.held hother (by rw [hfree]; rfl) (by rw [hfree]; rfl) (by rw [hfree]; rfl)
          (by rw [hfree]; rfl)
      · refine fin _ rfl rfl rfl (fun j hj => ?_) (by rw [station_setStation_same]; rfl)
          (by rw [station_setStation_same]; exact harm) (by rw [station_setStation_same]; exact hcor1) ?_
        · rw [station_setStation_ne _ _ _ _ (Ne.symm hj)]; exact .refl _
        · rw [station_setStation_same]
          cases hr : (u.station i).reCorrect with
          | false => rfl
          | true => have := hc1.flag i hr; rw [hcor1] at this; cases this

/-- Every request keeps the directory and the corrections in agreement. -/
theorem requestEffect_recordsAgree {s : State} (h : s.RecordsAgree) (i : Instr) :
    (requestEffect i s).2.RecordsAgree := by
  have hchan (v : Byte) (act : Channel → State → Reply × State) (ha : ∀ c, Quiet s (act c s).2) :
      (withChannel v act s).2.RecordsAgree := by
    unfold withChannel
    split
    · exact h.of_quiet (ha _)
    · exact h
  have hmap (c : Channel) (m : ChannelMap) : Quiet s (s.setMap c m) := setMap_quiet s c m
  cases i <;> try exact h
  case status => exact h.of_quiet (.of_stations rfl rfl rfl rfl)
  case lookup v => exact withSid_agrees h v _ fun _ _ => h
  case lookupSlot v => simp only [requestEffect, lookupSlotRequest]; split <;> exact h
  case scan v k =>
    simp only [requestEffect, scanRequest]
    split
    · split <;> exact h
    · exact h
  case writeStation v l =>
    simp only [requestEffect, writeStationRequest]
    split
    · split
      · refine withSid_agrees h v _ fun i _ => ?_
        unfold writeStationAt
        split
        · split
          · exact h
          · next r hr =>
            split
            · exact h
            · have hq := applySettings_quiet hr
              refine h.of_quiet (quiet_setStation ?_)
              exact ⟨by rw [hq.1], fun _ => hq.2.1, Or.inl hq.2.2.1, Or.inl hq.2.2.2.1,
                fun _ y => (by rw [← hq.2.2.2.2]; exact y)⟩
        · exact h
      · exact h
    · exact h
  case admitStation b => exact admitRequest_agrees h b
  case retire v => exact retireRequest_agrees h v
  case ackAttention v ks =>
    simp only [requestEffect, ackAttentionRequest]
    split
    · refine withSid_agrees h v _ fun i _ => ?_
      unfold ackAttentionAt
      split
      · exact h
      · exact h.of_quiet (dropKinds_quiet _ _ _)
    · exact h
  case armProgramme v x =>
    refine withSid_agrees h v _ fun i hi => ?_
    try dsimp only
    split
    · exact h
    · refine h.of_quiet (quiet_setStation ?_)
      exact ⟨rfl, fun _ => rfl, Or.inl rfl, Or.inl rfl, fun y _ => (by rw [hi] at y; cases y)⟩
  case disarmProgramme v =>
    refine withSid_agrees h v _ fun i _ => h.of_quiet (quiet_setStation ?_)
    exact ⟨rfl, fun _ => rfl, Or.inl rfl, Or.inl rfl, fun _ y => by cases y⟩
  case takeCorrection =>
    simp only [requestEffect, takeCorrectionRequest]
    split
    · exact h
    · next hq => exact ⟨h.directory.of_same (takeEntry_identity _ _ _), takeEntry_agrees h.corrections hq⟩
  case probes p => simp only [requestEffect, probesRequest]; split <;> exact h
  case dismiss t =>
    simp only [requestEffect, dismissRequest]
    split
    · exact h.of_quiet (removeProbe_quiet _ _)
    · exact h
  case mapOpen c a b =>
    refine hchan c _ fun c => ?_
    try dsimp only
    split
    · exact hmap _ _
    · exact .refl s
  case mapGrant c a l v k =>
    refine hchan c _ fun c => ?_
    try dsimp only
    split
    · exact .refl s
    · unfold appendGrant
      repeat' first | split | exact .refl s | exact hmap _ _
  case mapClose c =>
    refine hchan c _ fun c => ?_
    try dsimp only
    split
    · exact .refl s
    · exact .refl s
    · split
      · exact .refl s
      · split
        · split
          · exact promote_quiet _ _ _
          · exact hmap _ _
        · exact .refl s
  case mapAbandon c => exact hchan c _ fun c => hmap _ _
  case channelOn c =>
    refine hchan c _ fun c => ?_
    try dsimp only
    split
    · exact .refl s
    · split
      · exact .refl s
      · split
        · exact hmap _ _
        · exact hmap _ _
        · split
          · exact (hmap _ _).trans (promote_quiet _ _ _)
          · exact (hmap _ _).trans (setMap_quiet _ _ _)
  case channelOff c => exact hchan c _ fun c => resetChannel_quiet c s
  case setDescriptor x b =>
    simp only [requestEffect, setDescriptorRequest]
    split
    · exact h.of_quiet (.of_stations rfl rfl rfl rfl)
    · exact h
  case readDescriptor x => simp only [requestEffect, readDescriptorRequest]; split <;> exact h
  case timeLoad v =>
    simp only [requestEffect, timeLoadRequest]
    split
    · exact h.of_quiet (.of_stations rfl rfl rfl rfl)
    · exact h
  case setParameter n v =>
    simp only [requestEffect, setParameterRequest]
    split
    · have h1 : Quiet s { s with windowLead := v.toNat } := .of_stations rfl rfl rfl rfl
      exact h.of_quiet (h1.trans (testAll_quiet _))
    · split
      · exact h.of_quiet (.of_stations rfl rfl rfl rfl)
      · exact h

end Sys2Proof.Machine
end

