-- ==== Sys2Proof/Laws/Holders.lean ====
section
/-! SUPPORT. What the operations do to the holders: the records' bindings, the burst contexts, the engines and the waiting
order stay in agreement. While a burst ends or an engine changes hands, the agreement is stated with that channel and that
engine left out (`HoldersBut`). -/

namespace Sys2Proof.Machine

/-! ### The agreement with a channel and an engine left out -/

/-- The holders agree but for channel `X` and engine `Y`: of these it is only known that channel `X` burst holds no record
but `Z`, and engine `Y` settling none but `W`, and that nothing else names them. -/
structure HoldersBut (X : Option Channel) (Z : Option Slot) (Y : Option EngineId) (W : Option Slot) (s : State) :
    Prop where
  bursts : ∀ c, X ≠ some c → BurstAgrees (s.burst c) (s.point c)
  engines : ∀ e, Y ≠ some e → EngineAgrees (s.engine e)
  heldByBurst : ∀ i c, X ≠ some c → ((s.station i).binding = .burst c ↔ (s.burst c).slot = some i)
  heldByX : ∀ i c, X = some c → (s.station i).binding = .burst c → Z = some i
  heldBySettling : ∀ i e, Y ≠ some e →
    ((s.station i).binding = .settling e ↔ ((s.engine e).state = .settling ∧ (s.engine e).slot = some i))
  heldByY : ∀ i e, Y = some e → (s.station i).binding = .settling e → W = some i
  granted : ∀ c e, X ≠ some c → Y ≠ some e →
    ((s.burst c).engine = .granted e ↔ ((s.engine e).state = .live ∧ (s.engine e).channel = some c))
  grantedX : ∀ c e, X = some c → Y ≠ some e → ¬ ((s.engine e).state = .live ∧ (s.engine e).channel = some c)
  grantedY : ∀ c e, X ≠ some c → Y = some e → (s.burst c).engine ≠ .granted e
  service : ∀ c e, X ≠ some c → (s.burst c).engine = .granted e → (s.engine e).slot = (s.burst c).slot ∧
    (s.engine e).kind = (s.burst c).window.map Window.grant
  requested : ∀ c, X ≠ some c → ((s.burst c).engine = .requested ↔ c ∈ s.waiting.map EngineRequest.channel)
  requestedX : ∀ c, X = some c → c ∉ s.waiting.map EngineRequest.channel
  requests : ∀ q ∈ s.waiting, (s.burst q.channel).slot = some q.slot ∧
    (s.burst q.channel).capture = some q.arrival ∧ (s.burst q.channel).window.map Window.grant = some q.kind
  oneEach : (s.waiting.map EngineRequest.channel).Nodup
  allLive : s.waiting ≠ [] → ∀ e, Y ≠ some e → (s.engine e).state = .live
  free : ∀ i, (s.station i).state = .free → s.station i = Station.reset
  retiring : ∀ i, (s.station i).state = .retiring → ∃ c, (s.station i).binding = .burst c
  channel : ∀ i c, (s.station i).binding = .burst c → (s.station i).channel = c
  counts : s.Counted

theorem State.HoldersAgree.but {s : State} (h : s.HoldersAgree) : HoldersBut none none none none s :=
  ⟨fun c _ => h.bursts c, fun e _ => h.engines e, fun i c _ => h.heldByBurst i c, by simp,
    fun i e _ => h.heldBySettling i e, by simp, fun c e _ _ => h.granted c e, by simp, by simp,
    fun c e _ => h.service c e, fun c _ => h.requested c, by simp, h.requests, h.oneEach, fun hw e _ => h.allLive hw e,
    h.free, h.retiring, h.channel, h.counts⟩

theorem HoldersBut.agree {Z W : Option Slot} {s : State} (h : HoldersBut none Z none W s) : s.HoldersAgree :=
  ⟨fun c => h.bursts c (by simp), fun e => h.engines e (by simp), fun i c => h.heldByBurst i c (by simp),
    fun i e => h.heldBySettling i e (by simp), fun c e => h.granted c e (by simp) (by simp),
    fun c e => h.service c e (by simp), fun c => h.requested c (by simp), h.requests, h.oneEach,
    fun hw e => h.allLive hw e (by simp), h.free, h.retiring, h.channel, h.counts⟩

/-- A bound record is not FREE. -/
theorem HoldersBut.notFree {X : Option Channel} {Z : Option Slot} {Y : Option EngineId} {W : Option Slot} {s : State}
    (h : HoldersBut X Z Y W s) {i : Slot} (hb : (s.station i).binding ≠ .none) : (s.station i).state ≠ .free := by
  intro e
  rw [h.free i e] at hb
  exact hb rfl

/-! ### Changes that the holders do not see -/

/-- Between `s` and `t` no binding, burst, engine or request has changed, nor the close and grace points of a channel other
than `X`; a bound record's channel stands, a record that is FREE now has not been written, none has become RETIRING, and
the attention counts still count. -/
structure Kept (X : Option Channel) (s t : State) : Prop where
  engines : t.engines = s.engines
  bursts : t.bursts = s.bursts
  waiting : t.waiting = s.waiting
  points : ∀ d, X ≠ some d → (t.point d).close = (s.point d).close ∧ (t.point d).grace = (s.point d).grace
  binding : ∀ i, (t.station i).binding = (s.station i).binding
  channel : ∀ i, (s.station i).binding ≠ .none → (t.station i).channel = (s.station i).channel
  free : ∀ i, (t.station i).state = .free → t.station i = s.station i
  retiring : ∀ i, (t.station i).state = .retiring → (s.station i).state = .retiring
  counts : s.Counted → t.Counted

theorem Kept.refl (X : Option Channel) (s : State) : Kept X s s := by
  constructor <;> first | exact id | intros <;> first | rfl | exact ⟨rfl, rfl⟩ | assumption

theorem Kept.trans {X : Option Channel} {s t u : State} (a : Kept X s t) (b : Kept X t u) : Kept X s u where
  engines := b.engines.trans a.engines
  bursts := b.bursts.trans a.bursts
  waiting := b.waiting.trans a.waiting
  points d hd := ⟨(b.points d hd).1.trans (a.points d hd).1, (b.points d hd).2.trans (a.points d hd).2⟩
  binding i := (b.binding i).trans (a.binding i)
  channel i h := (b.channel i (by rw [a.binding i]; exact h)).trans (a.channel i h)
  free i h := by
    have h1 := b.free i h
    exact h1.trans (a.free i (by rw [← h1]; exact h))
  retiring i h := a.retiring i (b.retiring i h)
  counts h := b.counts (a.counts h)

/-- A change that touches no record, or one that leaves the close and grace points alone. -/
theorem Kept.of_stations {X : Option Channel} {s t : State} (h : t.stations = s.stations) (hc : t.counts = s.counts)
    (h1 : t.engines = s.engines) (h2 : t.bursts = s.bursts) (h3 : t.waiting = s.waiting)
    (h4 : ∀ d, X ≠ some d → (t.point d).close = (s.point d).close ∧ (t.point d).grace = (s.point d).grace) :
    Kept X s t := by
  have hs : ∀ i, t.station i = s.station i := fun i => by simp [State.station, h]
  refine ⟨h1, h2, h3, h4, fun i => by rw [hs], fun i _ => by rw [hs], fun i _ => hs i, fun i e => by rwa [hs] at e,
    fun hk k => ?_⟩
  rw [hc, hk k]
  exact List.countP_congr fun i _ => by rw [hs]

theorem Kept.burst {X : Option Channel} {s t : State} (k : Kept X s t) (c : Channel) : t.burst c = s.burst c := by
  simp [State.burst, k.bursts]
theorem Kept.engine {X : Option Channel} {s t : State} (k : Kept X s t) (e : EngineId) : t.engine e = s.engine e := by
  simp [State.engine, k.engines]

theorem BurstAgrees.of_points {b : Burst} {p q : TimePoints} (h : BurstAgrees b p) (h1 : q.close = p.close)
    (h2 : q.grace = p.grace) : BurstAgrees b q := by
  cases h
  constructor <;> simp_all

theorem HoldersBut.of_kept {X : Option Channel} {Z : Option Slot} {Y : Option EngineId} {W : Option Slot} {s t : State}
    (h : HoldersBut X Z Y W s) (k : Kept X s t) : HoldersBut X Z Y W t where
  bursts c hc := by rw [k.burst]; exact (h.bursts c hc).of_points (k.points c hc).1 (k.points c hc).2
  engines e he := by rw [k.engine]; exact h.engines e he
  heldByBurst i c hc := by rw [k.binding, k.burst]; exact h.heldByBurst i c hc
  heldByX i c hc := by rw [k.binding]; exact h.heldByX i c hc
  heldBySettling i e he := by rw [k.binding, k.engine]; exact h.heldBySettling i e he
  heldByY i e he := by rw [k.binding]; exact h.heldByY i e he
  granted c e hc he := by rw [k.burst, k.engine]; exact h.granted c e hc he
  grantedX c e hc he := by rw [k.engine]; exact h.grantedX c e hc he
  grantedY c e hc he := by rw [k.burst]; exact h.grantedY c e hc he
  service c e hc := by rw [k.burst, k.engine]; exact h.service c e hc
  requested c hc := by rw [k.burst, k.waiting]; exact h.requested c hc
  requestedX c hc := by rw [k.waiting]; exact h.requestedX c hc
  requests q hq := by rw [k.burst]; exact h.requests q (k.waiting ▸ hq)
  oneEach := by rw [k.waiting]; exact h.oneEach
  allLive hw e he := by rw [k.engine]; exact h.allLive (k.waiting ▸ hw) e he
  free i hi := by
    have h1 := k.free i hi
    rw [h1]
    exact h.free i (by rw [← h1]; exact hi)
  retiring i hi := by rw [k.binding]; exact h.retiring i (k.retiring i hi)
  channel i c hb := by
    rw [k.binding] at hb
    rw [k.channel i (by rw [hb]; simp)]
    exact h.channel i c hb
  counts := k.counts h.counts

theorem State.HoldersAgree.of_kept {s t : State} (h : s.HoldersAgree) (k : Kept none s t) : t.HoldersAgree :=
  (h.but.of_kept k).agree

/-- A relation for no channel holds for any. -/
theorem Kept.weaken {s t : State} (k : Kept none s t) (X : Option Channel) : Kept X s t :=
  { k with points := fun d _ => k.points d (by simp) }

/-! ### Counting -/

/-- Changing what is counted at one place changes the count by what changed there. -/
theorem countP_at {α : Type} [DecidableEq α] {l : List α} (hl : l.Nodup) {i : α} (hi : i ∈ l) {f g : α → Bool}
    (h : ∀ j, j ≠ i → f j = g j) : l.countP f + (g i).toNat = l.countP g + (f i).toNat := by
  induction l with
  | nil => cases hi
  | cons x rest ih =>
    simp only [List.countP_cons]
    rw [List.nodup_cons] at hl
    by_cases hx : x = i
    · subst hx
      have : rest.countP f = rest.countP g :=
        List.countP_congr fun j hj => by rw [h j (fun e => hl.1 (e ▸ hj))]
      rw [this]
      cases f x <;> cases g x <;> simp
    · rw [h x hx]
      have := ih hl.2 (by simpa [Ne.symm hx] using hi)
      omega

/-- How the number of records that hold a kind changes with one record. -/
theorem count_setStation (s : State) (i : Slot) (r : Station) (k : AttentionKind) :
    ((List.finRange 1024).countP fun j => ((s.setStation i r).station j).attention.has k) +
        ((s.station i).attention.has k).toNat =
      ((List.finRange 1024).countP fun j => (s.station j).attention.has k) + (r.attention.has k).toNat := by
  have := countP_at (List.nodup_finRange 1024) (List.mem_finRange i)
    (f := fun j => ((s.setStation i r).station j).attention.has k) (g := fun j => (s.station j).attention.has k)
    (fun j hj => by simp only [station_setStation_ne s i j r (Ne.symm hj)])
  simpa using this

theorem counted_setStation {s : State} (h : s.Counted) {i : Slot} {r : Station}
    (ha : r.attention = (s.station i).attention) : (s.setStation i r).Counted := by
  intro k
  have := count_setStation s i r k
  rw [ha] at this
  exact (h k).trans (Nat.add_right_cancel this).symm

theorem counted_add {s : State} (h : s.Counted) (i : Slot) (k : AttentionKind) : (addAttention i k s).Counted := by
  unfold addAttention
  dsimp only
  split
  · exact h
  · next hn =>
    intro x
    have hc := count_setStation s i { s.station i with attention := (s.station i).attention.put true k } x
    have hx := h x
    show (s.counts.put (s.counts.get k + 1) k).get x = _
    have hs : (State.setStation s i { s.station i with attention := (s.station i).attention.put true k }).station
      = ({ s.setStation i { s.station i with attention := (s.station i).attention.put true k } with
            counts := s.counts.put (s.counts.get k + 1) k } : State).station := rfl
    rw [hs] at hc
    cases k <;> cases x <;>
      simp only [Attention.has, Attention.put, AttentionCounts.get, AttentionCounts.put, Bool.not_eq_true] at * <;>
      (try simp only [hn, Bool.toNat_true, Bool.toNat_false] at hc) <;> omega

theorem counted_drop {s : State} (h : s.Counted) (i : Slot) (k : AttentionKind) : (dropAttention i k s).Counted := by
  unfold dropAttention
  dsimp only
  split
  · next hn =>
    intro x
    have hc := count_setStation s i { s.station i with attention := (s.station i).attention.put false k } x
    have hx := h x
    show (s.counts.put (s.counts.get k - 1) k).get x = _
    have hs : (State.setStation s i { s.station i with attention := (s.station i).attention.put false k }).station
      = ({ s.setStation i { s.station i with attention := (s.station i).attention.put false k } with
            counts := s.counts.put (s.counts.get k - 1) k } : State).station := rfl
    rw [hs] at hc
    cases k <;> cases x <;>
      simp only [Attention.has, Attention.put, AttentionCounts.get, AttentionCounts.put] at * <;>
      (try simp only [hn, Bool.toNat_true, Bool.toNat_false] at hc) <;> omega
  · exact h

/-! ### Operations on the records that the holders do not see -/

/-- A write of one record that leaves its binding, and its channel while it is bound, and makes it neither FREE nor
RETIRING. -/
theorem Kept.write {X : Option Channel} {s t : State} {i : Slot} {r : Station}
    (ht : t.stations = (s.setStation i r).stations) (h1 : t.engines = s.engines) (h2 : t.bursts = s.bursts)
    (h3 : t.waiting = s.waiting) (h4 : t.points = s.points) (hn : s.Counted → t.Counted)
    (hb : r.binding = (s.station i).binding)
    (hc : (s.station i).binding ≠ .none → r.channel = (s.station i).channel) (hf : r.state ≠ .free)
    (hr : r.state = .retiring → (s.station i).state = .retiring) : Kept X s t := by
  have hs : ∀ j, t.station j = (s.setStation i r).station j := fun j => by simp only [State.station, ht]
  refine ⟨h1, h2, h3, fun d _ => by simp only [State.point, h4]; trivial, fun j => ?_, fun j => ?_, fun j => ?_,
    fun j => ?_, hn⟩ <;> rw [hs j, station_setStation] <;> split <;> simp_all

theorem Kept.set {X : Option Channel} {s : State} {i : Slot} {r : Station} (ha : r.attention = (s.station i).attention)
    (hb : r.binding = (s.station i).binding)
    (hc : (s.station i).binding ≠ .none → r.channel = (s.station i).channel) (hf : r.state ≠ .free)
    (hr : r.state = .retiring → (s.station i).state = .retiring) : Kept X s (s.setStation i r) :=
  .write rfl rfl rfl rfl rfl (fun h => counted_setStation h ha) hb hc hf hr

theorem kept_addAttention {X : Option Channel} {s : State} {i : Slot} (k : AttentionKind)
    (hf : (s.station i).state ≠ .free) : Kept X s (addAttention i k s) := by
  have hc := fun h => counted_add (s := s) h i k
  unfold addAttention at *
  dsimp only at *
  split
  · exact .refl X s
  · next hn =>
    rw [if_neg hn] at hc
    exact .write (i := i) rfl rfl rfl rfl rfl hc rfl (fun _ => rfl) hf id

theorem kept_addAttentionIf {X : Option Channel} {s : State} {i : Slot} (b : Bool) (k : AttentionKind)
    (hf : (s.station i).state ≠ .free) : Kept X s (addAttentionIf b i k s) := by
  cases b
  · exact .refl X s
  · exact kept_addAttention k hf

theorem kept_dropAttention {X : Option Channel} {s : State} {i : Slot} (k : AttentionKind)
    (hf : (s.station i).state ≠ .free) : Kept X s (dropAttention i k s) := by
  have hc := fun h => counted_drop (s := s) h i k
  unfold dropAttention at *
  dsimp only at *
  split
  · next hn =>
    rw [if_pos hn] at hc
    exact .write (i := i) rfl rfl rfl rfl rfl hc rfl (fun _ => rfl) hf id
  · exact .refl X s

/-- The state field of every record is untouched. -/
theorem addAttention_state (i j : Slot) (k : AttentionKind) (s : State) :
    ((addAttention i k s).station j).state = (s.station j).state := by
  unfold addAttention
  dsimp only
  split
  · rfl
  · show ((State.setStation s i _).station j).state = _
    rw [station_setStation]; split <;> simp_all

theorem addAttentionIf_state (b : Bool) (i j : Slot) (k : AttentionKind) (s : State) :
    ((addAttentionIf b i k s).station j).state = (s.station j).state := by
  cases b
  · rfl
  · exact addAttention_state i j k s

theorem dropAttention_state (i j : Slot) (k : AttentionKind) (s : State) :
    ((dropAttention i k s).station j).state = (s.station j).state := by
  unfold dropAttention
  dsimp only
  split
  · show ((State.setStation s i _).station j).state = _
    rw [station_setStation]; split <;> simp_all
  · rfl

theorem kept_clearAttention {X : Option Channel} {s : State} {i : Slot} (hf : (s.station i).state ≠ .free) :
    Kept X s (clearAttention i s) := by
  unfold clearAttention
  refine (kept_dropAttention _ hf).trans ((kept_dropAttention _ ?_).trans (kept_dropAttention _ ?_))
  · rwa [dropAttention_state]
  · rwa [dropAttention_state, dropAttention_state]

theorem kept_dropKinds {X : Option Channel} {i : Slot} (ks : List AttentionKind) :
    ∀ {s : State}, (s.station i).state ≠ .free → Kept X s (dropKinds i ks s) := by
  induction ks with
  | nil => exact fun _ => .refl X _
  | cons k rest ih => exact fun hf => (kept_dropAttention k hf).trans (ih (by rwa [dropAttention_state]))

theorem kept_countMiss {X : Option Channel} (i : Slot) (s : State) : Kept X s (countMiss i s) := by
  unfold countMiss
  dsimp only
  split
  · next hs =>
    have hf : (s.station i).state ≠ .free := by rintro e; simp [e] at hs
    split
    · exact .set rfl rfl (fun _ => rfl) hf id
    · refine Kept.trans (t := s.setStation i { s.station i with missesRemaining := 0, state := .stale })
        (.set rfl rfl (fun _ => rfl) (by simp) (by simp)) (kept_addAttention _ (by simp))
  · exact .refl X s

theorem kept_writeMeasured {X : Option Channel} {s : State} {i : Slot} (kind : GrantKind) (o : Offsets)
    (hf : (s.station i).state ≠ .free) : Kept X s (writeMeasured i kind o s) := by
  unfold writeMeasured reloadMisses
  refine Kept.trans (t := s.setStation i { s.station i with lastMeasured := some ⟨kind, o⟩ })
    (.set rfl rfl (fun _ => rfl) hf id) (.set rfl rfl (fun _ => rfl) ?_ ?_)
  · simp only [station_setStation_same]
    split
    · cases (s.station i).stepClass <;> simp [StepClass.revived]
    · exact hf
  · simp only [station_setStation_same]
    split
    · cases (s.station i).stepClass <;> simp [StepClass.revived]
    · exact id

theorem kept_enterQueue {X : Option Channel} {s : State} {i : Slot} (hf : (s.station i).state ≠ .free) :
    Kept X s (enterQueue i s) :=
  .write (i := i) rfl rfl rfl rfl rfl (fun h => counted_setStation h rfl) rfl (fun _ => rfl) hf id

theorem kept_enterHeld {X : Option Channel} {s : State} {i : Slot} (hf : (s.station i).state ≠ .free) :
    Kept X s (enterHeld i s) :=
  .write (i := i) rfl rfl rfl rfl rfl (fun h => counted_setStation h rfl) rfl (fun _ => rfl) hf id

theorem kept_requestCorrection {X : Option Channel} {s : State} {i : Slot} (hf : (s.station i).state ≠ .free) :
    Kept X s (requestCorrection i s) := by
  unfold requestCorrection
  split
  · split
    · exact kept_enterQueue hf
    · exact kept_enterHeld hf
  · exact .refl X s
  · exact .set rfl rfl (fun _ => rfl) hf id

theorem kept_refill {X : Option Channel} {s : State} (hf : ∀ i ∈ s.held, (s.station i).state ≠ .free) :
    Kept X s (refill s) := by
  unfold refill
  split
  · exact .refl X s
  · next i rest hr =>
    have := hf i (by simp [hr])
    exact (Kept.of_stations (s := s) (t := { s with held := rest }) rfl rfl rfl rfl rfl fun _ _ => ⟨rfl, rfl⟩).trans
      (kept_enterQueue this)

theorem kept_clearCorrection {X : Option Channel} {s : State} {i : Slot} (hf : (s.station i).state ≠ .free) :
    Kept X s (clearCorrection i s) := .set rfl rfl (fun _ => rfl) hf id

/-- The state of a record after one of its fields but the state has been written. -/
theorem setStation_state {s : State} {i : Slot} {r : Station} (h : r.state = (s.station i).state) (j : Slot) :
    ((s.setStation i r).station j).state = (s.station j).state := by
  rw [station_setStation]; split <;> simp_all

theorem kept_withdrawCorrection {X : Option Channel} {s : State} {i : Slot} (hf : (s.station i).state ≠ .free)
    (hh : ∀ j ∈ s.held, (s.station j).state ≠ .free) : Kept X s (withdrawCorrection i s) := by
  unfold withdrawCorrection
  split
  · exact kept_clearCorrection hf
  · exact (Kept.of_stations (s := s) (t := { s with held := s.held.filter fun j => j ≠ i }) rfl rfl rfl rfl rfl
      fun _ _ => ⟨rfl, rfl⟩).trans (kept_clearCorrection hf)
  · refine ((Kept.of_stations (s := s) (t := { s with queue := s.queue.filter fun e => e.slot ≠ i }) rfl rfl rfl rfl rfl
      fun _ _ => ⟨rfl, rfl⟩).trans (kept_clearCorrection hf)).trans (kept_refill ?_)
    intro j hj
    rw [(clearCorrection_identity _ _).state]
    exact hh j hj

theorem refill_state (s : State) (j : Slot) : ((refill s).station j).state = (s.station j).state :=
  (refill_identity s).state j

theorem kept_takeEntry {X : Option Channel} {s : State} {e : Correction} {rest : List Correction}
    (hf : (s.station e.slot).state ≠ .free) (hh : ∀ j ∈ s.held, (s.station j).state ≠ .free) :
    Kept X s (takeEntry e rest s) := by
  have hstate : (applyTaken e (s.station e.slot)).state = (s.station e.slot).state := by
    unfold applyTaken; dsimp only; split <;> rfl
  have h1 : Kept X s (State.setStation { s with queue := rest } e.slot (applyTaken e (s.station e.slot))) := by
    refine .write (i := e.slot) (r := applyTaken e (s.station e.slot)) rfl rfl rfl rfl rfl
      (fun h => counted_setStation h ?_) ?_ (fun _ => ?_) (by rw [hstate]; exact hf) (by rw [hstate]; exact id) <;>
      (unfold applyTaken; dsimp only; split <;> rfl)
  have hs : ∀ j, ((State.setStation { s with queue := rest } e.slot (applyTaken e (s.station e.slot))).station j).state =
      (s.station j).state := fun j => setStation_state (s := { s with queue := rest }) hstate j
  have h2 := h1.trans (kept_clearCorrection (X := X) (i := e.slot) (by rw [hs]; exact hf))
  have h3 := h2.trans (kept_refill (X := X) (fun j hj => by
    rw [(clearCorrection_identity _ _).state, hs]
    exact hh j hj))
  unfold takeEntry
  dsimp only
  split
  · refine h3.trans (kept_requestCorrection ?_)
    rw [refill_state, (clearCorrection_identity _ _).state, hs]
    exact hf
  · exact h3

/-! ### Completion -/

/-- A record before and after a change that the holders do not see. -/
structure SameHold (r r' : Station) : Prop where
  binding : r'.binding = r.binding
  attention : r'.attention = r.attention
  channel : r'.channel = r.channel
  free : r'.state = .free → r.state = .free
  retiring : r'.state = .retiring → r.state = .retiring

theorem SameHold.refl (r : Station) : SameHold r r := ⟨rfl, rfl, rfl, id, id⟩
theorem SameHold.trans {a b c : Station} (x : SameHold a b) (y : SameHold b c) : SameHold a c :=
  ⟨y.binding.trans x.binding, y.attention.trans x.attention, y.channel.trans x.channel, fun h => x.free (y.free h),
    fun h => x.retiring (y.retiring h)⟩

theorem Kept.setSame {X : Option Channel} {s : State} {i : Slot} {r : Station} (h : SameHold (s.station i) r)
    (hf : (s.station i).state ≠ .free) : Kept X s (s.setStation i r) :=
  .set h.attention h.binding (fun _ => h.channel) (fun e => hf (h.free e)) h.retiring

theorem chainStep_same (p : Report) (w : Walk) (d : Descriptor) : SameHold w.record (chainStep p w d).record := by
  unfold chainStep coefficientStep frequencyStep powerStep timingStep
  repeat' first | split | exact ⟨rfl, rfl, rfl, id, id⟩ | dsimp only

theorem walkChain_same (p : Report) (r : Station) (steps : List Descriptor) :
    SameHold r (walkChain p r steps).record := by
  unfold walkChain
  suffices ∀ w : Walk, SameHold w.record (steps.foldl (chainStep p) w).record from this ⟨r, true, none⟩
  induction steps with
  | nil => exact fun w => .refl _
  | cons d rest ih => exact fun w => (chainStep_same p w d).trans (ih _)

theorem countRun_same (d : Descriptor) (r : Station) (v : Verdict) : SameHold r (countRun d r v).record := by
  unfold countRun
  dsimp only
  repeat' first | split | exact ⟨rfl, rfl, rfl, id, id⟩

theorem moveRecord_same (b : Bool) (v : Verdict) (r : Station) : SameHold r (moveRecord b v r) := by
  unfold moveRecord
  repeat' first | split | exact .refl r | exact ⟨rfl, rfl, rfl, id, id⟩ | exact ⟨rfl, rfl, rfl, by simp, by simp⟩

theorem completedRecord_same (s : State) (p : Report) : SameHold (s.station p.slot) (completedRecord s p).record := by
  unfold completedRecord
  dsimp only
  refine SameHold.trans (((walkChain_same p (s.station p.slot) (chainSteps s (s.station p.slot).vector)).trans
    (countRun_same (s.descriptor (s.station p.slot).vector) _ (runVerdict
      (walkChain p (s.station p.slot) (chainSteps s (s.station p.slot).vector)).within))).trans
    (moveRecord_same p.saturated _ _)) ⟨rfl, rfl, rfl, id, id⟩

/-- A completion is a change that the holders do not see, and then the unbinding of its record. -/
theorem complete_eq (X : Option Channel) {p : Report} {s : State} (hf : (s.station p.slot).state ≠ .free) :
    ∃ t, complete p s = unbind p.slot t ∧ Kept X s t := by
  unfold complete
  dsimp only
  split
  · refine ⟨_, rfl, ?_⟩
    have h1 := Kept.setSame (X := X) (completedRecord_same s p) hf
    have e1 : ((s.setStation p.slot (completedRecord s p).record).station p.slot).state ≠ .free := by
      rw [station_setStation_same]; exact fun e => hf ((completedRecord_same s p).free e)
    have h2 := h1.trans (kept_addAttentionIf (completedRecord s p).done .programmeDone e1)
    have h3 := h2.trans (kept_addAttentionIf (i := p.slot) p.saturated .saturated (by rwa [addAttentionIf_state]))
    split
    · exact h3.trans (kept_requestCorrection (by rwa [addAttentionIf_state, addAttentionIf_state]))
    · exact h3
  · exact ⟨_, rfl, kept_addAttentionIf _ _ hf⟩

/-! ### Unbinding -/

theorem dropAttention_at (i : Slot) (k : AttentionKind) (s : State) :
    (dropAttention i k s).station i = { s.station i with attention := (s.station i).attention.put false k } := by
  unfold dropAttention
  dsimp only
  split
  · exact station_setStation_same _ _ _
  · next hn =>
    have : (s.station i).attention.put false k = (s.station i).attention := by
      cases k <;> simp only [Attention.has, Bool.not_eq_true] at hn <;> simp only [Attention.put] <;> rw [← hn]
    rw [this]

theorem clearAttention_at (i : Slot) (s : State) :
    (clearAttention i s).station i = { s.station i with attention := Attention.empty } := by
  unfold clearAttention
  rw [dropAttention_at, dropAttention_at, dropAttention_at]
  rfl

theorem counted_becomeFree {s : State} (h : s.Counted) (i : Slot) : (becomeFree i s).Counted := by
  unfold becomeFree
  refine counted_setStation (s := clearAttention i s) ?_ (by rw [clearAttention_at]; rfl)
  exact counted_drop (counted_drop (counted_drop h i _) i _) i _

/-- What stands in the records after one has become FREE. -/
theorem becomeFree_station (i j : Slot) (s : State) :
    (becomeFree i s).station j = if i = j then Station.reset else s.station j := by
  unfold becomeFree
  rw [station_setStation]
  split
  · rfl
  · next hij =>
    have hd (u : State) (k : AttentionKind) : (dropAttention i k u).station j = u.station j := by
      unfold dropAttention
      dsimp only
      split
      · exact station_setStation_ne _ _ _ _ hij
      · rfl
    unfold clearAttention
    rw [hd, hd, hd]

/-- The record in a slot loses its holder, channel `X` burst or engine `Y` settling; after it neither holds any. -/
theorem HoldersBut.release {X : Option Channel} {Z Z' : Option Slot} {Y : Option EngineId} {W W' : Option Slot}
    {s t : State}
    (h : HoldersBut X Z Y W s) {i : Slot} {r : Station} (ht : t.stations = (s.setStation i r).stations)
    (h1 : t.engines = s.engines) (h2 : t.bursts = s.bursts) (h3 : t.waiting = s.waiting) (h4 : t.points = s.points)
    (hn : t.Counted) (hr : r.binding = .none) (hf : r.state = .free → r = Station.reset) (hs : r.state ≠ .retiring)
    (hb : ∀ c, (s.station i).binding = .burst c → X = some c) (he : ∀ e, (s.station i).binding = .settling e → Y = some e)
    (hZ : Z' = Z ∨ ∀ z, Z = some z → z = i) (hW : W' = W ∨ ∀ z, W = some z → z = i) : HoldersBut X Z' Y W' t := by
  have hst : ∀ j, t.station j = (s.setStation i r).station j := fun j => by simp only [State.station, ht]
  have hbu : ∀ c, t.burst c = s.burst c := fun c => by simp only [State.burst, h2]
  have hen : ∀ e, t.engine e = s.engine e := fun e => by simp only [State.engine, h1]
  have hpo : ∀ c, t.point c = s.point c := fun c => by simp only [State.point, h4]
  have hat : ∀ j, i = j → t.station j = r := fun j e => by rw [hst, station_setStation, if_pos e]
  have hoff : ∀ j, i ≠ j → t.station j = s.station j := fun j e => by rw [hst, station_setStation, if_neg e]
  constructor
  · intro c hc; rw [hbu, hpo]; exact h.bursts c hc
  · intro e h'; rw [hen]; exact h.engines e h'
  · intro j c hc
    rw [hbu]
    by_cases hij : i = j
    · subst hij
      rw [hat i rfl, hr, ← h.heldByBurst i c hc]
      exact ⟨fun x => by simp at x, fun x => absurd (hb c x) hc⟩
    · rw [hoff j hij]; exact h.heldByBurst j c hc
  · intro j c hc hx
    by_cases hij : i = j
    · rw [hat j hij, hr] at hx; cases hx
    · rw [hoff j hij] at hx
      exact hZ.elim (fun z => z ▸ h.heldByX j c hc hx) fun z => absurd (z j (h.heldByX j c hc hx)).symm hij
  · intro j e h'
    rw [hen]
    by_cases hij : i = j
    · subst hij
      rw [hat i rfl, hr, ← h.heldBySettling i e h']
      exact ⟨fun x => by simp at x, fun x => absurd (he e x) h'⟩
    · rw [hoff j hij]; exact h.heldBySettling j e h'
  · intro j e h' hx
    by_cases hij : i = j
    · rw [hat j hij, hr] at hx; cases hx
    · rw [hoff j hij] at hx
      exact hW.elim (fun z => z ▸ h.heldByY j e h' hx) fun z => absurd (z j (h.heldByY j e h' hx)).symm hij
  · intro c e hc h'; rw [hbu, hen]; exact h.granted c e hc h'
  · intro c e hc h'; rw [hen]; exact h.grantedX c e hc h'
  · intro c e hc h'; rw [hbu]; exact h.grantedY c e hc h'
  · intro c e hc; rw [hbu, hen]; exact h.service c e hc
  · intro c hc; rw [hbu, h3]; exact h.requested c hc
  · intro c hc; rw [h3]; exact h.requestedX c hc
  · intro q hq; rw [hbu]; exact h.requests q (h3 ▸ hq)
  · rw [h3]; exact h.oneEach
  · intro hw e h'; rw [hen]; exact h.allLive (h3 ▸ hw) e h'
  · intro j hj
    by_cases hij : i = j
    · rw [hat j hij] at hj ⊢; exact hf hj
    · rw [hoff j hij] at hj ⊢; exact h.free j hj
  · intro j hj
    by_cases hij : i = j
    · rw [hat j hij] at hj; exact absurd hj hs
    · rw [hoff j hij] at hj ⊢; exact h.retiring j hj
  · intro j c hj
    by_cases hij : i = j
    · rw [hat j hij, hr] at hj; cases hj
    · rw [hoff j hij] at hj ⊢; exact h.channel j c hj
  · exact hn

theorem HoldersBut.becomeFree {X : Option Channel} {Z Z' : Option Slot} {Y : Option EngineId} {W W' : Option Slot}
    {s : State}
    (h : HoldersBut X Z Y W s) {i : Slot}
    (hb : ∀ c, (s.station i).binding = .burst c → X = some c) (he : ∀ e, (s.station i).binding = .settling e → Y = some e)
    (hZ : Z' = Z ∨ ∀ z, Z = some z → z = i) (hW : W' = W ∨ ∀ z, W = some z → z = i) :
    HoldersBut X Z' Y W' (Machine.becomeFree i s) := by
  have hf := becomeFree_frame i s
  refine h.release (i := i) (r := Station.reset) ?_ hf.engines hf.bursts hf.waiting hf.points
    (counted_becomeFree h.counts i) rfl (fun _ => rfl) (by decide) hb he hZ hW
  apply Vector.ext
  intro j hj
  have := becomeFree_station i ⟨j, hj⟩ s
  rw [← station_setStation] at this
  exact this

theorem HoldersBut.unbind {X : Option Channel} {Z Z' : Option Slot} {Y : Option EngineId} {W W' : Option Slot}
    {s : State}
    (h : HoldersBut X Z Y W s) {i : Slot}
    (hb : ∀ c, (s.station i).binding = .burst c → X = some c) (he : ∀ e, (s.station i).binding = .settling e → Y = some e)
    (hZ : Z' = Z ∨ ∀ z, Z = some z → z = i) (hW : W' = W ∨ ∀ z, W = some z → z = i) :
    HoldersBut X Z' Y W' (Machine.unbind i s) := by
  unfold Machine.unbind
  dsimp only
  split
  · exact h.becomeFree hb he hZ hW
  · next hr =>
    refine h.release (i := i) (r := { s.station i with binding := .none }) rfl rfl rfl rfl rfl
      (counted_setStation h.counts rfl) rfl (fun hf => ?_) hr hb he hZ hW
    have := h.free i hf
    rw [this]
    rfl

/-- A completion on a record that channel `X` burst or engine `Y` settling holds unbinds it. -/
theorem HoldersBut.complete {X : Option Channel} {Z Z' : Option Slot} {Y : Option EngineId} {W W' : Option Slot}
    {s : State}
    (h : HoldersBut X Z Y W s) {p : Report} (hn : (s.station p.slot).binding ≠ .none)
    (hb : ∀ c, (s.station p.slot).binding = .burst c → X = some c)
    (he : ∀ e, (s.station p.slot).binding = .settling e → Y = some e)
    (hZ : Z' = Z ∨ ∀ z, Z = some z → z = p.slot) (hW : W' = W ∨ ∀ z, W = some z → z = p.slot) :
    HoldersBut X Z' Y W' (Machine.complete p s) := by
  obtain ⟨t, e, k⟩ := complete_eq X (p := p) (h.notFree hn)
  rw [e]
  exact (h.of_kept k).unbind (by rw [k.binding]; exact hb) (by rw [k.binding]; exact he) hZ hW

/-! ### Engines change hands -/

theorem reset_engineAgrees : EngineAgrees Engine.reset := by constructor <;> simp [Engine.reset]

theorem loadedEngine_agrees (q : EngineRequest) (r : Station) (d : Descriptor) : EngineAgrees (loadedEngine q r d) := by
  constructor <;> simp [loadedEngine]

/-- The burst context of a channel once its request has been granted. -/
def Burst.withEngine (b : Burst) (e : EngineId) : Burst :=
  { b with engine := .granted e, state := if b.state = .waiting then .live else b.state }

theorem withEngine_agrees {b : Burst} {p : TimePoints} (h : BurstAgrees b p) (hr : b.engine = .requested) (e : EngineId) :
    BurstAgrees (b.withEngine e) p := by
  obtain ⟨h1, h2, h3, h4, h5, h6⟩ := h
  have hp : b.state.inProgress = true := by
    cases hi : b.state.inProgress
    · have := (h1 hi).2; simp [hr] at this
    · rfl
  have hs : b.state = .waiting ∨ b.state = .grace := by
    cases hb : b.state <;> simp_all [SequencerState.inProgress]
  unfold Burst.withEngine
  rcases hs with hs | hs <;> constructor <;> simp_all [SequencerState.inProgress] <;>
    exact h2.2.imp fun w h => ⟨h.1, h.2.1, h.2.2.1, h.2.2.2.1, h.2.2.2.2.1⟩

theorem HoldersBut.releaseIdle {X : Option Channel} {Z : Option Slot} {e : EngineId} {s : State}
    (h : HoldersBut X Z (some e) none s) (hw : s.waiting = []) : HoldersBut X Z none none (s.setEngine e .reset) := by
  have hen : ∀ j, (s.setEngine e Engine.reset).engine j = if e = j then Engine.reset else s.engine j :=
    fun j => engine_setEngine s e j _
  have hst : ∀ j, (s.setEngine e Engine.reset).station j = s.station j := fun _ => rfl
  have hbu : ∀ j, (s.setEngine e Engine.reset).burst j = s.burst j := fun _ => rfl
  have hpo : ∀ j, (s.setEngine e Engine.reset).point j = s.point j := fun _ => rfl
  have hwt : (s.setEngine e Engine.reset).waiting = s.waiting := rfl
  have hr : Engine.reset.state = .idle := rfl
  obtain ⟨a1, a2, a3, a4, a5, a6, a7, a8, a9, a10, a11, a12, a13, a14, a15, a16, a17, a18, a19⟩ := h
  have := reset_engineAgrees
  constructor <;> (try simp only [hen, hst, hbu, hpo, hwt]) <;> first | exact a19 | grind

/-- An engine is granted to the first waiting request. -/
theorem HoldersBut.releaseWaiting {X : Option Channel} {Z : Option Slot} {e : EngineId} {s : State}
    (h : HoldersBut X Z (some e) none s) {q : EngineRequest} {rest : List EngineRequest} (hw : s.waiting = q :: rest) :
    HoldersBut X Z none none (grantEngine e q { s with waiting := rest }) := by
  have hne : X ≠ some q.channel := fun hx => h.requestedX q.channel hx (by simp [hw])
  have hreq : (s.burst q.channel).engine = .requested := (h.requested q.channel hne).2 (by simp [hw])
  obtain ⟨q1, q2, q3⟩ := h.requests q (by simp [hw])
  have hb := h.bursts q.channel hne
  have hnew := withEngine_agrees hb hreq e
  obtain ⟨x, hx⟩ : ∃ x, x = loadedEngine q (s.station q.slot) (s.descriptor (s.station q.slot).vector) := ⟨_, rfl⟩
  have hxa : EngineAgrees x := hx ▸ loadedEngine_agrees _ _ _
  have x1 : x.state = .live := by rw [hx]; rfl
  have x2 : x.channel = some q.channel := by rw [hx]; rfl
  have x3 : x.slot = some q.slot := by rw [hx]; rfl
  have x4 : x.kind = some q.kind := by rw [hx]; rfl
  have ht : grantEngine e q { s with waiting := rest } =
      (State.setEngine { s with waiting := rest } e x).setBurst q.channel ((s.burst q.channel).withEngine e) := by
    rw [hx]; rfl
  rw [ht]
  obtain ⟨b, hbd⟩ : ∃ b, b = (s.burst q.channel).withEngine e := ⟨_, rfl⟩
  have b1 : b.engine = .granted e := by rw [hbd]; rfl
  have b2 : b.slot = (s.burst q.channel).slot := by rw [hbd]; rfl
  have b3 : b.window = (s.burst q.channel).window := by rw [hbd]; rfl
  rw [← hbd] at hnew ⊢
  obtain ⟨t, htd⟩ : ∃ t, t = (State.setEngine { s with waiting := rest } e x).setBurst q.channel b := ⟨_, rfl⟩
  rw [← htd]
  have hen : ∀ j, t.engine j = if e = j then x else s.engine j := fun j => by
    rw [htd]; exact engine_setEngine { s with waiting := rest } e j x
  have hbu : ∀ j, t.burst j = if q.channel = j then b else s.burst j := fun j => by
    rw [htd]; exact burst_setBurst _ q.channel j b
  have hst : ∀ j, t.station j = s.station j := fun _ => by rw [htd]; rfl
  have hpo : ∀ j, t.point j = s.point j := fun _ => by rw [htd]; rfl
  have hwt : t.waiting = rest := by rw [htd]; rfl
  have hct : t.Counted := by rw [htd]; exact h.counts
  obtain ⟨a1, a2, a3, a4, a5, a6, a7, a8, a9, a10, a11, a12, a13, a14, a15, a16, a17, a18, a19⟩ := h
  have hall := a15 (by simp [hw])
  simp only [hw, List.map_cons, List.nodup_cons, List.mem_cons] at a11 a12 a14 a13
  constructor <;> (try simp only [hen, hst, hbu, hpo, hwt]) <;> first | exact hct | grind

/-- An engine that holds no record is released. -/
theorem HoldersBut.releaseEngine {X : Option Channel} {Z : Option Slot} {e : EngineId} {s : State}
    (h : HoldersBut X Z (some e) none s) : HoldersBut X Z none none (Machine.releaseEngine e s) := by
  unfold Machine.releaseEngine
  split
  · next hw => exact h.releaseIdle hw
  · next q rest hw => exact h.releaseWaiting hw

/-- A settling engine is left out together with the record it holds. -/
theorem State.HoldersAgree.butEngine {s : State} (h : s.HoldersAgree) {e : EngineId} {i : Slot}
    (he : (s.engine e).state = .settling) (hi : (s.engine e).slot = some i) :
    HoldersBut none none (some e) (some i) s := by
  obtain ⟨a1, a2, a3, a4, a5, a6, a7, a8, a9, a10, a11, a12, a13, a14⟩ := h
  constructor <;> first | exact a14 | grind

/-- An IDLE engine may be left out. -/
theorem HoldersBut.butIdle {X : Option Channel} {Z : Option Slot} {s : State} (h : HoldersBut X Z none none s)
    {e : EngineId} (he : (s.engine e).state = .idle) : HoldersBut X Z (some e) none s := by
  obtain ⟨a1, a2, a3, a4, a5, a6, a7, a8, a9, a10, a11, a12, a13, a14, a15, a16, a17, a18, a19⟩ := h
  constructor <;> first | exact a19 | grind

/-- A settling engine is left out with the record it holds, beside a channel. -/
theorem HoldersBut.butSettling {X : Option Channel} {Z : Option Slot} {s : State} (h : HoldersBut X Z none none s)
    {e : EngineId} {i : Slot} (he : (s.engine e).state = .settling) (hi : (s.engine e).slot = some i) :
    HoldersBut X Z (some e) (some i) s := by
  obtain ⟨a1, a2, a3, a4, a5, a6, a7, a8, a9, a10, a11, a12, a13, a14, a15, a16, a17, a18, a19⟩ := h
  constructor <;> first | exact a19 | grind

/-- The burst context that a DETECT has made ready for its engine request. -/
structure Burst.ReadyFor (b : Burst) (q : EngineRequest) : Prop where
  engine : b.engine = .requested
  state : b.state = .waiting
  slot : b.slot = some q.slot
  capture : b.capture = some q.arrival
  window : b.window.map Window.grant = some q.kind

/-- The engine of a new request is granted at once. -/
theorem HoldersBut.grantNew {q : EngineRequest} {e : EngineId} {s : State}
    (h : HoldersBut (some q.channel) (some q.slot) (some e) none s) (hw : s.waiting = [])
    (hr : (s.burst q.channel).ReadyFor q) (hb : BurstAgrees (s.burst q.channel) (s.point q.channel))
    (hi : (s.station q.slot).binding = .burst q.channel) : (grantEngine e q s).HoldersAgree := by
  have hnew := withEngine_agrees hb hr.engine e
  obtain ⟨x, hx⟩ : ∃ x, x = loadedEngine q (s.station q.slot) (s.descriptor (s.station q.slot).vector) := ⟨_, rfl⟩
  have hxa : EngineAgrees x := hx ▸ loadedEngine_agrees _ _ _
  have x1 : x.state = .live := by rw [hx]; rfl
  have x2 : x.channel = some q.channel := by rw [hx]; rfl
  have x3 : x.slot = some q.slot := by rw [hx]; rfl
  have x4 : x.kind = some q.kind := by rw [hx]; rfl
  have ht : grantEngine e q s = (s.setEngine e x).setBurst q.channel ((s.burst q.channel).withEngine e) := by
    rw [hx]; rfl
  rw [ht]
  obtain ⟨b, hbd⟩ : ∃ b, b = (s.burst q.channel).withEngine e := ⟨_, rfl⟩
  have b1 : b.engine = .granted e := by rw [hbd]; rfl
  have b2 : b.slot = some q.slot := by rw [hbd]; exact hr.slot
  have b3 : x.kind = b.window.map Window.grant := by rw [x4, hbd]; exact hr.window.symm
  rw [← hbd] at hnew ⊢
  obtain ⟨t, htd⟩ : ∃ t, t = (s.setEngine e x).setBurst q.channel b := ⟨_, rfl⟩
  rw [← htd]
  have hen : ∀ j, t.engine j = if e = j then x else s.engine j := fun j => by
    rw [htd]; exact engine_setEngine s e j x
  have hbu : ∀ j, t.burst j = if q.channel = j then b else s.burst j := fun j => by
    rw [htd]; exact burst_setBurst _ q.channel j b
  have hst : ∀ j, t.station j = s.station j := fun _ => by rw [htd]; rfl
  have hpo : ∀ j, t.point j = s.point j := fun _ => by rw [htd]; rfl
  have hwt : t.waiting = [] := by rw [htd]; exact hw
  have hct : t.Counted := by rw [htd]; exact h.counts
  obtain ⟨a1, a2, a3, a4, a5, a6, a7, a8, a9, a10, a11, a12, a13, a14, a15, a16, a17, a18, a19⟩ := h
  simp only [hw, List.map_nil] at a11 a12
  clear hr hb hbd hx x4
  have hg : ∀ c j, (if q.channel = c then b else s.burst c).engine = .granted j ↔
      ((if e = j then x else s.engine j).state = .live ∧ (if e = j then x else s.engine j).channel = some c) := by
    intro c j
    by_cases hc : q.channel = c <;> by_cases he : e = j <;> simp only [hc, he, if_true, if_false]
    · grind
    · have := a8 c j (by rw [hc]) (by simpa using he)
      grind
    · have := a9 c j (by simpa using hc) (by rw [he])
      grind
    · exact a7 c j (by simpa using hc) (by simpa using he)
  constructor <;> (try simp only [hen, hst, hbu, hpo, hwt]) <;> first | exact hct | exact hg | grind

theorem joinOrder_perm (q : EngineRequest) (l : List EngineRequest) : (joinOrder q l).Perm (q :: l) := by
  induction l with
  | nil => exact .refl _
  | cons x rest ih =>
    unfold joinOrder
    split
    · exact .refl _
    · exact (ih.cons x).trans (.swap q x rest)

/-- A new request joins the waiting order when every engine is LIVE. -/
theorem HoldersBut.join {q : EngineRequest} {s : State} (h : HoldersBut (some q.channel) (some q.slot) none none s)
    (hl : ∀ e, (s.engine e).state = .live) (hr : (s.burst q.channel).ReadyFor q)
    (hb : BurstAgrees (s.burst q.channel) (s.point q.channel))
    (hi : (s.station q.slot).binding = .burst q.channel) :
    State.HoldersAgree { s with waiting := joinOrder q s.waiting } := by
  obtain ⟨t, htd⟩ : ∃ t : State, t = { s with waiting := joinOrder q s.waiting } := ⟨_, rfl⟩
  rw [← htd]
  have hen : ∀ j, t.engine j = s.engine j := fun _ => by rw [htd]; rfl
  have hbu : ∀ j, t.burst j = s.burst j := fun _ => by rw [htd]; rfl
  have hst : ∀ j, t.station j = s.station j := fun _ => by rw [htd]; rfl
  have hpo : ∀ j, t.point j = s.point j := fun _ => by rw [htd]; rfl
  have hp : t.waiting.Perm (q :: s.waiting) := by rw [htd]; exact joinOrder_perm q s.waiting
  have hm : ∀ c, c ∈ t.waiting.map EngineRequest.channel ↔ c = q.channel ∨ c ∈ s.waiting.map EngineRequest.channel := by
    intro c
    rw [(hp.map _).mem_iff]
    simp
  have hq : ∀ r, r ∈ t.waiting ↔ r = q ∨ r ∈ s.waiting := fun r => by rw [hp.mem_iff]; simp
  have hd : (t.waiting.map EngineRequest.channel).Nodup := by
    rw [(hp.map _).nodup_iff]
    exact List.nodup_cons.2 ⟨h.requestedX _ rfl, h.oneEach⟩
  have hct : t.Counted := by rw [htd]; exact h.counts
  obtain ⟨r1, r2, r3, r4, r5⟩ := hr
  obtain ⟨a1, a2, a3, a4, a5, a6, a7, a8, a9, a10, a11, a12, a13, a14, a15, a16, a17, a18, a19⟩ := h
  constructor <;> (try simp only [hen, hst, hbu, hpo, hm]) <;> first | exact hct | exact hd | grind

/-- A record without holder is bound to a channel whose burst context is not in progress; the channel is left out. -/
theorem State.HoldersAgree.bind {s : State} (h : s.HoldersAgree) {c : Channel} {i : Slot}
    (hs : (s.burst c).slot = none) (he : (s.burst c).engine = .none) (hb : (s.station i).binding = .none)
    (hf : (s.station i).state ≠ .free) (hc : (s.station i).channel = c) (b : Burst) :
    HoldersBut (some c) (some i) none none ((s.setStation i { s.station i with binding := .burst c }).setBurst c b) := by
  obtain ⟨r, hr⟩ : ∃ r : Station, r = { s.station i with binding := .burst c } := ⟨_, rfl⟩
  rw [← hr]
  have r1 : r.binding = .burst c := by rw [hr]
  have r2 : r.state = (s.station i).state := by rw [hr]
  have r3 : r.channel = c := by rw [hr]; exact hc
  obtain ⟨t, htd⟩ : ∃ t, t = (s.setStation i r).setBurst c b := ⟨_, rfl⟩
  rw [← htd]
  have hen : ∀ j, t.engine j = s.engine j := fun _ => by rw [htd]; rfl
  have hbu : ∀ j, t.burst j = if c = j then b else s.burst j := fun j => by rw [htd]; exact burst_setBurst _ c j b
  have hst : ∀ j, t.station j = if i = j then r else s.station j := fun j => by
    rw [htd]; exact station_setStation s i j r
  have hpo : ∀ j, t.point j = s.point j := fun _ => by rw [htd]; rfl
  have hwt : t.waiting = s.waiting := by rw [htd]; rfl
  have hct : t.Counted := by rw [htd]; exact counted_setStation h.counts (by rw [hr])
  obtain ⟨a1, a2, a3, a4, a5, a6, a7, a8, a9, a10, a11, a12, a13, a14⟩ := h
  constructor <;> (try simp only [hen, hst, hbu, hpo, hwt]) <;> first | exact hct | grind

/-- What a completion leaves of its record, which was bound and not RETIRING. -/
theorem complete_holder {p : Report} {s : State} (hf : (s.station p.slot).state ≠ .free)
    (hr : (s.station p.slot).state ≠ .retiring) (hb : (s.station p.slot).binding ≠ .none) :
    ((Machine.complete p s).station p.slot).binding = .none ∧
    ((Machine.complete p s).station p.slot).state ≠ .free ∧
    ((Machine.complete p s).station p.slot).channel = (s.station p.slot).channel := by
  obtain ⟨t, e, k⟩ := complete_eq none (p := p) hf
  have hr' : (t.station p.slot).state ≠ .retiring := fun x => hr (k.retiring _ x)
  rw [e]
  unfold Machine.unbind
  dsimp only
  rw [if_neg hr', station_setStation_same]
  exact ⟨rfl, fun x => hf (by have := k.free _ x; rw [← this]; exact x), k.channel _ hb⟩

/-- A completion leaves every other record's holder. -/
theorem preempted_spec {s t : State} {x : Option EngineId} (h : preemptedEngine s = (x, t)) :
    (∀ e, x = some e → (s.engine e).state = .settling) ∧
    (x = none → ∀ e, (s.engine e).state ≠ .settling) ∧ ∃ n, t = { s with choices := n } := by
  have hm : ∀ e, e ∈ settlingEngines s ↔ (s.engine e).state = .settling := fun e => by simp [settlingEngines]
  unfold preemptedEngine at h
  dsimp only at h
  split at h
  · next e he =>
    injection h with h1 h2
    subst h1 h2
    refine ⟨fun j hj => ?_, by simp, s.choices, rfl⟩
    injection hj with hj
    subst hj
    exact (hm _).1 (List.mem_of_find?_eq_some he)
  · unfold State.pick at h
    split at h
    · next hl =>
      injection h with h1 h2
      subst h1 h2
      refine ⟨by simp, fun _ e he => ?_, s.choices, rfl⟩
      have := (hm e).2 he
      rw [hl] at this
      cases this
    · next y hl =>
      injection h with h1 h2
      subst h1 h2
      refine ⟨fun j hj => ?_, by simp, s.choices, rfl⟩
      injection hj with hj
      exact (hm j).1 (by rw [hl, ← hj]; simp)
    · next y z rest hl =>
      injection h with h1 h2
      subst h2
      refine ⟨fun j hj => ?_, fun hx => ?_, _, rfl⟩
      · rw [← h1] at hj
        exact (hm j).1 (by rw [hl]; exact List.mem_of_getElem? hj)
      · rw [← h1, List.getElem?_eq_none_iff] at hx
        have := Nat.mod_lt (Sys2Proof.Config.openChoice s.choices) (show 0 < rest.length + 2 by omega)
        simp only [State.choose, List.length_cons] at hx
        omega

/-- An engine request of a record just bound brings the holders into agreement. -/
theorem HoldersBut.request {q : EngineRequest} {s : State}
    (h : HoldersBut (some q.channel) (some q.slot) none none s) (hr : (s.burst q.channel).ReadyFor q)
    (hb : BurstAgrees (s.burst q.channel) (s.point q.channel))
    (hi : (s.station q.slot).binding = .burst q.channel) : (requestEngine q s).HoldersAgree := by
  have hwait : ∀ e, (s.engine e).state ≠ .live → s.waiting = [] := by
    intro e he
    by_contra hw
    exact he (h.allLive hw e (by simp))
  unfold requestEngine
  split
  · next e he =>
    have hs : (s.engine e).state = .idle := by
      have := List.find?_some he
      simpa using this
    exact (h.butIdle hs).grantNew (hwait e (by rw [hs]; simp)) hr hb hi
  · next hidle =>
    have hni : ∀ e, (s.engine e).state ≠ .idle := fun e => by
      have := List.find?_eq_none.1 hidle e (List.mem_finRange e)
      simpa using this
    split
    · next e t heq =>
      obtain ⟨p1, -, n, rfl⟩ := preempted_spec heq
      have hs := p1 e rfl
      have hk : Kept (some q.channel) s { s with choices := n } :=
        .of_stations rfl rfl rfl rfl rfl fun _ _ => ⟨rfl, rfl⟩
      have hw := hwait e (by rw [hs]; simp)
      obtain ⟨-, g1, -, -, g2, -⟩ := (h.engines e (by simp)).settling hs
      obtain ⟨j, hj⟩ := Option.isSome_iff_exists.1 g1
      obtain ⟨o, ho⟩ := Option.isSome_iff_exists.1 g2
      have hbj : (s.station j).binding = .settling e := (h.heldBySettling j e (by simp)).2 ⟨hs, hj⟩
      have hji : j ≠ q.slot := by rintro rfl; rw [hi] at hbj; cases hbj
      have h1 := (h.butSettling hs hj).of_kept hk
      unfold completeSettling
      rw [show ({ s with choices := n } : State).engine e = s.engine e from rfl, hj, ho]
      dsimp only
      obtain ⟨p, hp⟩ : ∃ p, p = settlingReport (s.engine e) j o false := ⟨_, rfl⟩
      have hps : p.slot = j := by rw [hp]; rfl
      rw [← hp]
      have hbn : (({ s with choices := n } : State).station p.slot).binding = .settling e := by rw [hps]; exact hbj
      have h2 : HoldersBut (some q.channel) (some q.slot) (some e) none (Machine.complete p { s with choices := n }) := by
        refine h1.complete (p := p) (by rw [hbn]; simp) (fun c x => ?_) (fun f x => ?_) (Or.inl rfl)
          (Or.inr fun z hz => ?_)
        · rw [hbn] at x; cases x
        · rw [hbn] at x; injection x with x; rw [x]
        · rw [hps]; injection hz with hz; exact hz.symm
      have hf := complete_frame p { s with choices := n }
      have fb : ∀ c, (Machine.complete p { s with choices := n }).burst c = s.burst c := fun c => by
        simp only [State.burst, hf.bursts]
      have fp : ∀ c, (Machine.complete p { s with choices := n }).point c = s.point c := fun c => by
        simp only [State.point, hf.points]
      refine h2.grantNew (hf.waiting.trans hw) (by rw [fb]; exact hr) (by rw [fb, fp]; exact hb) ?_
      obtain ⟨u, eu, ku⟩ := complete_eq none (p := p) (s := { s with choices := n })
        (h1.notFree (by rw [hbn]; simp))
      rw [eu]
      have : (Machine.unbind p.slot u).station q.slot = u.station q.slot := by
        unfold Machine.unbind
        dsimp only
        split
        · rw [becomeFree_station, hps, if_neg hji]
        · rw [hps, station_setStation_ne _ _ _ _ hji]
      rw [this, ku.binding]
      exact hi
    · next t heq =>
      obtain ⟨-, p2, -⟩ := preempted_spec heq
      refine h.join (fun e => ?_) hr hb hi
      have := hni e
      have := p2 rfl e
      cases hx : (s.engine e).state <;> simp_all

/-! ### One burst context or one engine context changes -/

/-- A burst context that keeps its slot and engine item, and its capture and window as far as an engine or a request
depends on them. -/
theorem State.HoldersAgree.updateBurst {s : State} (h : s.HoldersAgree) {c : Channel} {b : Burst} {p : TimePoints}
    (hs : b.slot = (s.burst c).slot) (he : b.engine = (s.burst c).engine)
    (hw : b.engine = .none ∨ (b.window = (s.burst c).window ∧ b.capture = (s.burst c).capture))
    (hb : BurstAgrees b p) : ((s.setBurst c b).setPoint c p).HoldersAgree := by
  obtain ⟨t, htd⟩ : ∃ t, t = (s.setBurst c b).setPoint c p := ⟨_, rfl⟩
  rw [← htd]
  have hen : ∀ j, t.engine j = s.engine j := fun _ => by rw [htd]; rfl
  have hbu : ∀ j, t.burst j = if c = j then b else s.burst j := fun j => by rw [htd]; exact burst_setBurst s c j b
  have hst : ∀ j, t.station j = s.station j := fun _ => by rw [htd]; rfl
  have hpo : ∀ j, t.point j = if c = j then p else s.point j := fun j => by rw [htd]; exact point_setPoint _ c j p
  have hwt : t.waiting = s.waiting := by rw [htd]; rfl
  have hct : t.Counted := by rw [htd]; exact h.counts
  obtain ⟨a1, a2, a3, a4, a5, a6, a7, a8, a9, a10, a11, a12, a13, a14⟩ := h
  have hr : ∀ q ∈ s.waiting, (s.burst q.channel).engine = .requested := fun q hq =>
    (a7 q.channel).2 (List.mem_map.2 ⟨q, hq, rfl⟩)
  constructor <;> (try simp only [hen, hst, hbu, hpo, hwt]) <;> first | exact hct | grind

theorem State.HoldersAgree.setBurst {s : State} (h : s.HoldersAgree) {c : Channel} {b : Burst}
    (hs : b.slot = (s.burst c).slot) (he : b.engine = (s.burst c).engine)
    (hw : b.engine = .none ∨ (b.window = (s.burst c).window ∧ b.capture = (s.burst c).capture))
    (hb : BurstAgrees b (s.point c)) : (s.setBurst c b).HoldersAgree := by
  have := h.updateBurst hs he hw hb
  rwa [show (s.setBurst c b).setPoint c (s.point c) = s.setBurst c b from setPoint_self (s.setBurst c b) c] at this

/-- An engine context that keeps its state, channel, slot and grant kind. -/
theorem State.HoldersAgree.setEngine {s : State} (h : s.HoldersAgree) {e : EngineId} {x : Engine}
    (h1 : x.state = (s.engine e).state) (h2 : x.channel = (s.engine e).channel) (h3 : x.slot = (s.engine e).slot)
    (h4 : x.kind = (s.engine e).kind) (hx : EngineAgrees x) : (s.setEngine e x).HoldersAgree := by
  obtain ⟨t, htd⟩ : ∃ t, t = s.setEngine e x := ⟨_, rfl⟩
  rw [← htd]
  have hen : ∀ j, t.engine j = if e = j then x else s.engine j := fun j => by rw [htd]; exact engine_setEngine s e j x
  have hbu : ∀ j, t.burst j = s.burst j := fun _ => by rw [htd]; rfl
  have hst : ∀ j, t.station j = s.station j := fun _ => by rw [htd]; rfl
  have hpo : ∀ j, t.point j = s.point j := fun _ => by rw [htd]; rfl
  have hwt : t.waiting = s.waiting := by rw [htd]; rfl
  have hct : t.Counted := by rw [htd]; exact h.counts
  obtain ⟨a1, a2, a3, a4, a5, a6, a7, a8, a9, a10, a11, a12, a13, a14⟩ := h
  constructor <;> (try simp only [hen, hst, hbu, hpo, hwt]) <;> first | exact hct | grind

/-! ### Settling ends or goes on -/

theorem State.HoldersAgree.settled {s : State} (h : s.HoldersAgree) {e : EngineId} {i : Slot}
    (he : (s.engine e).state = .settling) (hi : (s.engine e).slot = some i) {p : Report} (hp : p.slot = i) :
    HoldersBut none none (some e) none (Machine.complete p s) := by
  subst hp
  have hb := (h.heldBySettling p.slot e).2 ⟨he, hi⟩
  refine (h.butEngine he hi).complete (by rw [hb]; simp) (fun c x => ?_) (fun f x => ?_) (Or.inl rfl)
    (Or.inr fun z hz => ?_)
  · rw [hb] at x; cases x
  · rw [hb] at x; injection x with x; rw [x]
  · injection hz with hz; exact hz.symm

theorem preemptRecord_holders {s : State} (h : s.HoldersAgree) {e : EngineId} (he : (s.engine e).state = .settling) :
    (preemptRecord e s).HoldersAgree := by
  obtain ⟨-, g1, -, -, g2, -⟩ := (h.engines e).settling he
  obtain ⟨j, hj⟩ := Option.isSome_iff_exists.1 g1
  obtain ⟨o, ho⟩ := Option.isSome_iff_exists.1 g2
  unfold preemptRecord completeSettling
  rw [hj, ho]
  exact (h.settled he hj (p := settlingReport (s.engine e) j o false) rfl).releaseEngine.agree

/-- The context of an engine that training does not touch, and the presence of its working set. -/
structure SameEngine (e e' : Engine) : Prop where
  state : e'.state = e.state
  channel : e'.channel = e.channel
  slot : e'.slot = e.slot
  kind : e'.kind = e.kind
  errors : e'.errors = e.errors
  settlingStart : e'.settlingStart = e.settlingStart
  checkpoint : e'.checkpoint = e.checkpoint
  working : e.working.isSome = true → e'.working.isSome = true

theorem SameEngine.refl (e : Engine) : SameEngine e e := ⟨rfl, rfl, rfl, rfl, rfl, rfl, rfl, id⟩
theorem SameEngine.trans {a b c : Engine} (x : SameEngine a b) (y : SameEngine b c) : SameEngine a c :=
  ⟨y.state.trans x.state, y.channel.trans x.channel, y.slot.trans x.slot, y.kind.trans x.kind, y.errors.trans x.errors,
    y.settlingStart.trans x.settlingStart, y.checkpoint.trans x.checkpoint, fun h => y.working (x.working h)⟩

theorem train_same (e : Engine) (x r : Cplx) : SameEngine e (e.train x r) := by
  unfold Engine.train Engine.adapt
  dsimp only
  split
  · exact ⟨rfl, rfl, rfl, rfl, rfl, rfl, rfl, id⟩
  · exact ⟨rfl, rfl, rfl, rfl, rfl, rfl, rfl, fun _ => rfl⟩

theorem runPass_same (e : Engine) : SameEngine e e.runPass := by
  unfold Engine.runPass
  suffices ∀ (l : List (Cplx × Cplx)) (x : Engine), SameEngine x (l.foldl (fun x p => x.train p.1 p.2) x) from this _ _
  intro l
  induction l with
  | nil => exact fun x => .refl x
  | cons p rest ih => exact fun x => (train_same x _ _).trans (ih _)

theorem handle_same (e : Engine) (x : Cplx) (r : Option Cplx) : SameEngine e (e.handle x r) := by
  unfold Engine.handle Engine.keep
  have ht : SameEngine e (e.take x).advance := ⟨rfl, rfl, rfl, rfl, rfl, rfl, rfl, id⟩
  split
  · split
    · have := train_same e x (by assumption)
      split
      · exact this.trans ⟨rfl, rfl, rfl, rfl, rfl, rfl, rfl, id⟩
      · exact this
    · exact ht
  · exact ht

theorem completePass_holders {s : State} (h : s.HoldersAgree) {e : EngineId} (he : (s.engine e).state = .settling) :
    (completePass e s).HoldersAgree := by
  obtain ⟨g0, g1, g3, g4, g2, g5⟩ := (h.engines e).settling he
  have hr := runPass_same (s.engine e)
  unfold completePass
  dsimp only
  split
  · refine h.setEngine hr.state hr.channel hr.slot hr.kind ?_
    have hst : (s.engine e).runPass.endPass.startPass.state = .settling := hr.state.trans he
    refine ⟨fun x => ?_, fun x => ?_, fun _ => ⟨hr.channel.trans g0, ?_, hr.working g3, hr.working g3, ?_, ?_⟩⟩
    · rw [hst] at x; cases x
    · rw [hst] at x; cases x
    · exact (congrArg Option.isSome hr.slot).trans g1
    · exact (congrArg Option.isSome hr.errors).trans g2
    · exact (congrArg Option.isSome hr.settlingStart).trans g5
  · obtain ⟨j, hj⟩ := Option.isSome_iff_exists.1 g1
    obtain ⟨o, ho⟩ := Option.isSome_iff_exists.1 g2
    rw [completeSettling_setEngine, releaseEngine_setEngine]
    rw [show (s.engine e).runPass.endPass.slot = some j from hr.slot.trans hj,
      show (s.engine e).runPass.endPass.errors = some o from hr.errors.trans ho]
    exact (h.settled he hj (p := settlingReport (s.engine e).runPass.endPass j o true) rfl).releaseEngine.agree

/-! ### Beginning a burst -/

theorem beginUnicast_holders {s : State} (h : s.HoldersAgree) {c : Channel} {w : Window} {i : Slot} {phase : BitVec 6}
    (hb : (s.burst c).state = .opened) (hw : (s.burst c).window = some w) (hk : w.kind = .unicast)
    (hi : w.slot = some i) (hm : stationMatches s i w.sid c = true) : (beginUnicast c w i phase s).HoldersAgree := by
  have hidle := (h.bursts c).idle (by rw [hb]; rfl)
  simp only [stationMatches, Bool.and_eq_true, decide_eq_true_eq] at hm
  obtain ⟨⟨hserved, -⟩, hch⟩ := hm
  have hnf : (s.station i).state ≠ .free := fun x => by rw [x] at hserved; cases hserved
  have hnr : (s.station i).state ≠ .retiring := fun x => by rw [x] at hserved; cases hserved
  have core (u : State) (k1 : u.HoldersAgree) (k2 : u.burst c = s.burst c) (k3 : u.point c = s.point c)
      (k5 : (u.station i).binding = .none) (k6 : (u.station i).state ≠ .free) (k7 : (u.station i).channel = c) :
      (requestEngine ⟨c, i, w.grant, ⟨s.counter, phase⟩⟩
        ((u.setStation i { u.station i with binding := .burst c }).setBurst c
          { ((u.setStation i { u.station i with binding := .burst c }).burst c).started ⟨s.counter, phase⟩ (some i) with
            engine := .requested, state := .waiting })).HoldersAgree := by
    have hbu : (u.setStation i { u.station i with binding := .burst c }).burst c = s.burst c := k2
    rw [hbu]
    have h1 := k1.bind (by rw [k2]; exact hidle.1) (by rw [k2]; exact hidle.2) k5 k6 k7
      { (s.burst c).started ⟨s.counter, phase⟩ (some i) with engine := .requested, state := .waiting }
    refine HoldersBut.request (q := ⟨c, i, w.grant, ⟨s.counter, phase⟩⟩) h1 ?_ ?_ ?_
    · rw [burst_setBurst_same]
      exact ⟨rfl, rfl, rfl, rfl, by show Option.map Window.grant (s.burst c).window = _; rw [hw]; rfl⟩
    · rw [burst_setBurst_same]
      show BurstAgrees _ (u.point c)
      rw [k3]
      obtain ⟨b1, b2, b3, b4, b5, b6⟩ := h.bursts c
      simp only [hb] at b5 b6
      refine ⟨by simp [SequencerState.inProgress], fun _ => ⟨rfl, w, hw, Or.inl ⟨hk, hi, rfl, ?_, ?_⟩⟩, fun _ => rfl,
        by simp, ?_, ?_⟩
      · simp [Burst.started]
      · simp [Burst.started]
      · rw [b5]; simp
      · rw [b6]; simp
    · show ((u.setStation i _).station i).binding = _
      rw [station_setStation_same]
  unfold beginUnicast
  cases hbi : (s.station i).binding with
  | none => exact core s h rfl rfl hbi hnf hch
  | burst d =>
    have hd := h.channel i d hbi
    rw [hch] at hd
    subst hd
    have := (h.heldByBurst i c).1 hbi
    rw [hidle.1] at this
    cases this
  | settling e =>
    have he := (h.heldBySettling i e).1 hbi
    have hwt : s.waiting = [] := by
      by_contra hx
      have := h.allLive hx e
      rw [he.1] at this
      cases this
    obtain ⟨-, g1, -, -, g2, -⟩ := (h.engines e).settling he.1
    obtain ⟨o, ho⟩ := Option.isSome_iff_exists.1 g2
    obtain ⟨p, hpd⟩ : ∃ p, p = settlingReport (s.engine e) i o false := ⟨_, rfl⟩
    have hps : p.slot = i := by rw [hpd]; rfl
    have hf := complete_frame p s
    have hx : preemptRecord e s = (Machine.complete p s).setEngine e .reset := by
      unfold preemptRecord completeSettling Machine.releaseEngine
      rw [he.2, ho]
      dsimp only
      rw [← hpd, hf.waiting, hwt]
    have hc := complete_holder (p := p) (s := s) (by rw [hps]; exact hnf) (by rw [hps]; exact hnr)
      (by rw [hps, hbi]; simp)
    rw [hps] at hc
    refine core (preemptRecord e s) (preemptRecord_holders h he.1) ?_ ?_ ?_ ?_ ?_ <;> rw [hx]
    · show (Machine.complete p s).burst c = _; simp only [State.burst, hf.bursts]
    · show (Machine.complete p s).point c = _; simp only [State.point, hf.points]
    · exact hc.1
    · exact hc.2.1
    · exact hc.2.2.trans hch

theorem detect_holders {s : State} (h : s.HoldersAgree) (c : Channel) (phase : BitVec 6) :
    (detect c phase s).HoldersAgree := by
  have hb := h.bursts c
  unfold detect
  split
  · exact h
  · unfold detectByState
    dsimp only
    split
    · exact h
    · exact h
    · next hs =>
      refine h.setBurst rfl rfl (Or.inr ⟨rfl, rfl⟩) ?_
      cases hb; constructor <;> assumption
    · next hs =>
      refine h.setBurst rfl rfl (Or.inr ⟨rfl, rfl⟩) ?_
      cases hb; constructor <;> assumption
    · next hs =>
      have hidle := hb.idle (by rw [hs]; rfl)
      split
      · exact h
      · next w hw =>
        unfold detectOpen
        split
        · next hk =>
          refine h.setBurst (by rw [hidle.1]; rfl) (by rw [hidle.2]; rfl) (Or.inl rfl) ?_
          obtain ⟨b1, b2, b3, b4, b5, b6⟩ := hb
          simp only [hs] at b5 b6
          refine ⟨by simp [SequencerState.inProgress], fun _ => ⟨rfl, w, hw, Or.inr ⟨hk, rfl, rfl⟩⟩, by simp, by simp [Burst.started],
            ?_, ?_⟩
          · rw [b5]; simp
          · rw [b6]; simp
        · exact h
        · next hk =>
          split
          · exact h
          · next i hi =>
            split
            · next hc =>
              simp only [Bool.and_eq_true] at hc
              exact beginUnicast_holders h hs hw hk hi hc.2
            · exact h

/-! ### A channel left out while its burst ends -/

theorem kept_emit (X : Option Channel) (s : State) (c : Channel) (x : SymbolItem) : Kept X s (s.emit c x) :=
  .of_stations rfl rfl rfl rfl rfl fun _ _ => ⟨rfl, rfl⟩

theorem kept_emitTrailer (X : Option Channel) (c : Channel) (b : Burst) (o : BurstOutcome) (s : State) :
    Kept X s (emitTrailer c b o s) := by
  unfold emitTrailer
  split
  · exact kept_emit X s c _
  · exact .refl X s

theorem kept_setMap (X : Option Channel) (s : State) (c : Channel) (m : ChannelMap) : Kept X s (s.setMap c m) :=
  .of_stations rfl rfl rfl rfl rfl fun _ _ => ⟨rfl, rfl⟩

theorem kept_setPoint (s : State) (c : Channel) (p : TimePoints) : Kept (some c) s (s.setPoint c p) :=
  .of_stations rfl rfl rfl rfl rfl fun d hd => by
    rw [point_setPoint_ne s c d p (fun e => hd (by rw [e]))]; exact ⟨rfl, rfl⟩

/-- The opening point and the map end point are no concern of the holders. -/
theorem kept_setPoint_same {s : State} {c : Channel} {p : TimePoints} (h1 : p.close = (s.point c).close)
    (h2 : p.grace = (s.point c).grace) : Kept none s (s.setPoint c p) :=
  .of_stations rfl rfl rfl rfl rfl fun d _ => by
    rw [point_setPoint]; split
    · next e => rw [← e]; exact ⟨h1, h2⟩
    · exact ⟨rfl, rfl⟩

theorem kept_endGrace (c : Channel) (s : State) : Kept (some c) s (endGrace c s) := kept_setPoint s c _

/-- Withdrawing a request before or after such a change is the same change. -/
theorem Kept.withdraw {X : Option Channel} {s t : State} (k : Kept X s t) (c : Channel) :
    Kept X (withdrawRequest c s) (withdrawRequest c t) :=
  { k with waiting := by simp only [withdrawRequest, k.waiting] }

theorem State.HoldersAgree.butGranted {s : State} (h : s.HoldersAgree) {c : Channel} {e : EngineId} {i : Slot}
    (he : (s.burst c).engine = .granted e) (hi : (s.burst c).slot = some i) :
    HoldersBut (some c) (some i) (some e) none s := by
  obtain ⟨a1, a2, a3, a4, a5, a6, a7, a8, a9, a10, a11, a12, a13, a14⟩ := h
  constructor <;> first | exact a14 | grind

theorem State.HoldersAgree.butNone {s : State} (h : s.HoldersAgree) {c : Channel}
    (he : (s.burst c).engine = .none) : HoldersBut (some c) (s.burst c).slot none none s := by
  obtain ⟨a1, a2, a3, a4, a5, a6, a7, a8, a9, a10, a11, a12, a13, a14⟩ := h
  constructor <;> first | exact a14 | grind

theorem mem_withdrawn (c d : Channel) (l : List EngineRequest) :
    d ∈ (l.filter fun q => q.channel ≠ c).map EngineRequest.channel ↔ d ≠ c ∧ d ∈ l.map EngineRequest.channel := by
  simp only [List.mem_map, List.mem_filter, decide_eq_true_eq]
  constructor
  · rintro ⟨q, ⟨h1, h2⟩, rfl⟩
    exact ⟨h2, q, h1, rfl⟩
  · rintro ⟨h, q, h1, rfl⟩
    exact ⟨q, ⟨h1, h⟩, rfl⟩

theorem State.HoldersAgree.butRequested {s : State} (h : s.HoldersAgree) {c : Channel} {i : Slot}
    (he : (s.burst c).engine = .requested) (hi : (s.burst c).slot = some i) :
    HoldersBut (some c) (some i) none none (withdrawRequest c s) := by
  have hen : ∀ j, (withdrawRequest c s).engine j = s.engine j := fun _ => rfl
  have hbu : ∀ j, (withdrawRequest c s).burst j = s.burst j := fun _ => rfl
  have hst : ∀ j, (withdrawRequest c s).station j = s.station j := fun _ => rfl
  have hpo : ∀ j, (withdrawRequest c s).point j = s.point j := fun _ => rfl
  have hm : ∀ d, d ∈ (withdrawRequest c s).waiting.map EngineRequest.channel ↔
      d ≠ c ∧ d ∈ s.waiting.map EngineRequest.channel := fun d => mem_withdrawn c d s.waiting
  have hq : ∀ q, q ∈ (withdrawRequest c s).waiting → q ∈ s.waiting := fun q hq => List.mem_of_mem_filter hq
  have hd : ((withdrawRequest c s).waiting.map EngineRequest.channel).Nodup :=
    h.oneEach.sublist (List.filter_sublist.map _)
  have hw : (withdrawRequest c s).waiting ≠ [] → s.waiting ≠ [] := fun x y => by
    apply x; simp [withdrawRequest, y]
  have hct : (withdrawRequest c s).Counted := h.counts
  obtain ⟨a1, a2, a3, a4, a5, a6, a7, a8, a9, a10, a11, a12, a13, a14⟩ := h
  constructor <;> (try simp only [hen, hst, hbu, hpo, hm]) <;> first | exact hct | exact hd | grind

theorem HoldersBut.setBurst {c : Channel} {Z : Option Slot} {Y : Option EngineId} {W : Option Slot} {s : State}
    (h : HoldersBut (some c) Z Y W s) (b : Burst) : HoldersBut (some c) Z Y W (s.setBurst c b) := by
  obtain ⟨t, htd⟩ : ∃ t, t = s.setBurst c b := ⟨_, rfl⟩
  rw [← htd]
  have hen : ∀ j, t.engine j = s.engine j := fun _ => by rw [htd]; rfl
  have hbu : ∀ j, t.burst j = if c = j then b else s.burst j := fun j => by rw [htd]; exact burst_setBurst s c j b
  have hst : ∀ j, t.station j = s.station j := fun _ => by rw [htd]; rfl
  have hpo : ∀ j, t.point j = s.point j := fun _ => by rw [htd]; rfl
  have hwt : t.waiting = s.waiting := by rw [htd]; rfl
  have hct : t.Counted := by rw [htd]; exact h.counts
  obtain ⟨a1, a2, a3, a4, a5, a6, a7, a8, a9, a10, a11, a12, a13, a14, a15, a16, a17, a18, a19⟩ := h
  have hr : ∀ q ∈ s.waiting, q.channel ≠ c := fun q hq e =>
    a12 c rfl (List.mem_map.2 ⟨q, hq, e⟩)
  constructor <;> (try simp only [hen, hst, hbu, hpo, hwt]) <;> first | exact hct | grind

/-- A channel whose burst has ended, and whose burst holds no record, is taken back in. -/
theorem HoldersBut.close {c : Channel} {s : State} (h : HoldersBut (some c) none none none s)
    (hb : BurstAgrees (s.burst c) (s.point c)) (hs : (s.burst c).slot = none) (he : (s.burst c).engine = .none) :
    s.HoldersAgree := by
  obtain ⟨a1, a2, a3, a4, a5, a6, a7, a8, a9, a10, a11, a12, a13, a14, a15, a16, a17, a18, a19⟩ := h
  constructor <;> first | exact a19 | grind

/-- An engine that leaves the channel goes to another one. -/
theorem HoldersBut.releaseEngine_burst {c : Channel} {Z : Option Slot} {e : EngineId} {s : State}
    (h : HoldersBut (some c) Z (some e) none s) : (Machine.releaseEngine e s).burst c = s.burst c := by
  unfold Machine.releaseEngine
  split
  · rfl
  · next q rest hw =>
    have : q.channel ≠ c := fun x => h.requestedX c rfl (by rw [hw]; simp [x])
    exact burst_setBurst_ne _ _ _ _ this

theorem releaseEngine_station (e : EngineId) (s : State) (i : Slot) :
    (Machine.releaseEngine e s).station i = s.station i := by
  unfold Machine.releaseEngine
  split <;> rfl

/-- The burst on channel `c`, its request withdrawn if it had one, loses its engine and its record. -/
theorem drop_holders {s0 s : State} (h : s0.HoldersAgree) {c : Channel} {i : Slot} (hi : (s0.burst c).slot = some i)
    (k : Kept (some c) s0 s) :
    HoldersBut (some c) none none none (dropUnicast c (s0.burst c) i s) ∧
    (dropUnicast c (s0.burst c) i s).burst c = s0.burst c ∧
    (dropUnicast c (s0.burst c) i s).points = s.points := by
  have hbind : (s.station i).binding = .burst c := by rw [k.binding]; exact (h.heldByBurst i c).2 hi
  have hpts : (dropUnicast c (s0.burst c) i s).points = s.points := (dropUnicast_frame c _ i s).points
  refine ⟨?_, ?_, hpts⟩ <;> unfold dropUnicast releaseItem
  · have fin (t : State) (ht : HoldersBut (some c) (some i) none none t) (hb : (t.station i).binding = .burst c) :
        HoldersBut (some c) none none none (unbind i t) := by
      refine ht.unbind (fun d x => ?_) (fun d x => ?_) (Or.inr fun z hz => ?_) (Or.inl rfl)
      · rw [hb] at x; injection x with x; rw [x]
      · rw [hb] at x; cases x
      · injection hz with hz; exact hz.symm
    cases he : (s0.burst c).engine with
    | none =>
      have h1 := (h.butNone he).of_kept k
      rw [hi] at h1
      have hwd : withdrawRequest c s = s := by
        have : s.waiting.filter (fun q => q.channel ≠ c) = s.waiting := List.filter_eq_self.2 fun q hq => by
          simpa using fun x => h1.requestedX c rfl (List.mem_map.2 ⟨q, hq, x⟩)
        simp only [withdrawRequest, this]
      dsimp only
      rw [hwd]
      exact fin s h1 hbind
    | requested => exact fin _ ((h.butRequested he hi).of_kept (k.withdraw c)) hbind
    | granted e =>
      have h1 := (h.butGranted he hi).of_kept k
      have hwd : withdrawRequest c s = s := by
        have : s.waiting.filter (fun q => q.channel ≠ c) = s.waiting := List.filter_eq_self.2 fun q hq => by
          simpa using fun x => h1.requestedX c rfl (List.mem_map.2 ⟨q, hq, x⟩)
        simp only [withdrawRequest, this]
      dsimp only
      rw [hwd]
      exact fin _ h1.releaseEngine (by rw [releaseEngine_station]; exact hbind)
  · have hu (t : State) : (unbind i t).burst c = t.burst c := by
      simp only [State.burst, (unbind_frame i t).bursts]
    rw [hu]
    cases he : (s0.burst c).engine with
    | none => exact k.burst c
    | requested => exact k.burst c
    | granted e =>
      have h1 := (h.butGranted he hi).of_kept k
      have hwd : withdrawRequest c s = s := by
        have : s.waiting.filter (fun q => q.channel ≠ c) = s.waiting := List.filter_eq_self.2 fun q hq => by
          simpa using fun x => h1.requestedX c rfl (List.mem_map.2 ⟨q, hq, x⟩)
        simp only [withdrawRequest, this]
      dsimp only
      rw [hwd, h1.releaseEngine_burst]
      exact k.burst c

theorem kept_missTruncated {X : Option Channel} (w : Window) (i : Slot) (s : State) : Kept X s (missTruncated w i s) := by
  unfold missTruncated
  split
  · exact kept_countMiss i s
  · exact .refl X s

theorem points_eq {s t : State} (h : t.points = s.points) (c : Channel) : t.point c = s.point c := by
  simp only [State.point, h]

/-- A burst in grace is truncated: its channel, left out, then holds no record, its burst context has ended, and the grace
expiry point is gone. -/
theorem truncate_holders {s0 s : State} (h : s0.HoldersAgree) {c : Channel} (hg : (s0.burst c).state = .grace)
    (k : Kept (some c) s0 s) :
    HoldersBut (some c) none none none (truncate c s) ∧ (truncate c s).burst c = (s0.burst c).ended ∧
    (truncate c s).point c = { s.point c with grace := none } := by
  obtain ⟨-, w, hw, hcase⟩ := (h.bursts c).busy (by rw [hg]; rfl)
  have hbs : s.burst c = s0.burst c := k.burst c
  have fin (t : State) (ht : HoldersBut (some c) none none none t) (hb : t.burst c = s0.burst c)
      (hp : t.point c = { s.point c with grace := none }) (u : State)
      (hu : u = (emitTrailer c (s0.burst c) .truncated t).setBurst c
        ((emitTrailer c (s0.burst c) .truncated t).burst c).ended) :
      HoldersBut (some c) none none none u ∧ u.burst c = (s0.burst c).ended ∧
      u.point c = { s.point c with grace := none } := by
    have ke := kept_emitTrailer (some c) c (s0.burst c) .truncated t
    subst hu
    refine ⟨(ht.of_kept ke).setBurst _, ?_, ?_⟩
    · rw [burst_setBurst_same, ke.burst, hb]
    · show (emitTrailer c _ _ t).point c = _
      rw [← hp]
      exact points_eq (by unfold emitTrailer; split <;> rfl) c
  have hge : (endGrace c s).point c = { s.point c with grace := none } := point_setPoint_same _ _ _
  unfold truncate
  dsimp only
  rw [hbs, hg, hw]
  dsimp only
  rcases hcase with ⟨hk, hs1, hs2, -, -⟩ | ⟨hk, hs1, hs2⟩
  · obtain ⟨i, hi⟩ := Option.isSome_iff_exists.1 hs2
    rw [hk, hi]
    have hd := drop_holders h hi ((k.trans (kept_endGrace c s)).trans (kept_missTruncated w i (endGrace c s)))
    refine fin _ hd.1 hd.2.1 ?_ _ rfl
    rw [points_eq hd.2.2, points_eq (missTruncated_frame w i (endGrace c s)).points]
    exact hge
  · rw [hk]
    have h1 := ((h.butNone hs2).of_kept (k.trans (kept_endGrace c s)))
    rw [hs1] at h1
    exact fin _ h1 (k.burst c) hge _ rfl

theorem ended_agrees {b : Burst} {p q : TimePoints} (h : BurstAgrees b p) (hp : b.state.inProgress = true)
    (hn : b.state ≠ .waiting) (h1 : q.close = p.close) (h2 : q.grace = none) : BurstAgrees b.ended q := by
  obtain ⟨b1, b2, b3, b4, b5, b6⟩ := h
  unfold Burst.ended
  constructor <;> cases hs : b.state <;> simp_all [SequencerState.inProgress]

end Sys2Proof.Machine
end

