-- ==== Sys2Proof/Laws/Bindings.lean ====
section
/-! SUPPORT. Every command keeps the holders in agreement: the bursts and their ends, the windows, and the requests. -/

namespace Sys2Proof.Machine

/-! ### Taking a channel back in -/

/-- A channel left out is taken back in when its burst has no engine and holds the one record bound to it. -/
theorem HoldersBut.reopen {c : Channel} {Z : Option Slot} {s : State} (h : HoldersBut (some c) Z none none s)
    (hb : BurstAgrees (s.burst c) (s.point c)) (hs : (s.burst c).slot = Z) (he : (s.burst c).engine = .none)
    (hi : ∀ i, Z = some i → (s.station i).binding = .burst c) : s.HoldersAgree := by
  obtain ⟨a1, a2, a3, a4, a5, a6, a7, a8, a9, a10, a11, a12, a13, a14, a15, a16, a17, a18, a19⟩ := h
  constructor <;> first | exact a19 | grind

theorem kept_counter (s : State) (x : Tick) : Kept none s { s with counter := x } :=
  .of_stations rfl rfl rfl rfl rfl fun _ _ => ⟨rfl, rfl⟩

theorem kept_choices (s : State) (x : Nat) : Kept none s { s with choices := x } :=
  .of_stations rfl rfl rfl rfl rfl fun _ _ => ⟨rfl, rfl⟩

theorem kept_link (s : State) (x : Link) : Kept none s { s with link := x } :=
  .of_stations rfl rfl rfl rfl rfl fun _ _ => ⟨rfl, rfl⟩

/-! ### A burst in progress -/

/-- The unicast burst in progress on a channel. -/
theorem unicast_spec {s : State} (h : s.HoldersAgree) {c : Channel} {w : Window} (hu : unicastInProgress (s.burst c) = some w) :
    (s.burst c).state.inProgress = true ∧ (s.burst c).window = some w ∧ w.kind = .unicast ∧
    w.slot = (s.burst c).slot ∧ (s.burst c).slot.isSome = true ∧
    ((s.burst c).mode = .bypass ↔ (s.burst c).engine = .none) ∧
    ((s.burst c).mode = .equalised → ∃ e, (s.burst c).engine = .granted e) := by
  unfold unicastInProgress at hu
  split at hu
  · next x hw =>
    split at hu
    · next hc =>
      injection hu with hu
      subst hu
      simp only [Bool.and_eq_true, decide_eq_true_eq] at hc
      obtain ⟨-, v, hv, hcase⟩ := (h.bursts c).busy hc.1
      rw [hw] at hv
      injection hv with hv
      subst hv
      rcases hcase with hc1 | hc1
      · exact ⟨hc.1, hw, hc1⟩
      · rw [hc.2] at hc1; cases hc1.1
    · cases hu
  · cases hu

theorem contention_spec {s : State} (h : s.HoldersAgree) {c : Channel} {w : Window}
    (hu : contentionInProgress (s.burst c) = some w) :
    (s.burst c).state.inProgress = true ∧ (s.burst c).slot = none ∧ (s.burst c).engine = .none := by
  unfold contentionInProgress at hu
  split at hu
  · next x hw =>
    split at hu
    · next hc =>
      injection hu with hu
      subst hu
      simp only [Bool.and_eq_true, decide_eq_true_eq] at hc
      obtain ⟨-, v, hv, hcase⟩ := (h.bursts c).busy hc.1
      rw [hw] at hv
      injection hv with hv
      subst hv
      rcases hcase with hc1 | hc1
      · rw [hc.2] at hc1; cases hc1.1
      · exact ⟨hc.1, hc1.2⟩
    · cases hu
  · cases hu

theorem notWaiting {b : Burst} {p : TimePoints} (h : BurstAgrees b p) (he : b.engine ≠ .requested) : b.state ≠ .waiting :=
  fun x => he (h.waiting x)

/-- Deciding the mode of a unicast burst. -/
theorem decideMode_holders {s : State} (h : s.HoldersAgree) {c : Channel} {w : Window}
    (hu : unicastInProgress (s.burst c) = some w) (hm : (s.burst c).mode = .undecided) :
    (decideMode c w s).HoldersAgree := by
  obtain ⟨hp, hw, hk, hs1, hs2, hb, he⟩ := unicast_spec h hu
  obtain ⟨b1, b2, b3, b4, b5, b6⟩ := h.bursts c
  unfold decideMode
  dsimp only
  split
  · next e heng =>
    refine State.HoldersAgree.of_kept ?_ (kept_emit none _ c _)
    refine h.setBurst rfl rfl (Or.inr ⟨rfl, rfl⟩) ?_
    exact ⟨b1, fun x => ⟨(b2 x).1, w, hw, Or.inl ⟨hk, hs1, hs2, by simp [heng], fun _ => ⟨e, heng⟩⟩⟩, b3, b4, b5, b6⟩
  · next hne =>
    have hreq : (s.burst c).engine = .requested := by
      cases hx : (s.burst c).engine with
      | none => rw [hb.2 hx] at hm; cases hm
      | requested => rfl
      | granted e => exact absurd hx (hne e)
    obtain ⟨i, hi⟩ := Option.isSome_iff_exists.1 hs2
    have hbi := (h.heldByBurst i c).2 hi
    refine State.HoldersAgree.of_kept ?_ (kept_emit none _ c _)
    refine HoldersBut.reopen ((h.butRequested hreq hi).setBurst _) ?_ ?_ ?_ ?_
    · rw [burst_setBurst_same]
      show BurstAgrees _ (s.point c)
      have hcap := (b2 hp).1
      have hst : (if (s.burst c).state = .waiting then SequencerState.live else (s.burst c).state).inProgress = true := by
        split
        · rfl
        · exact hp
      refine ⟨fun x => ?_, fun _ => ⟨hcap, w, hw, Or.inl ⟨hk, hs1, hs2, by simp, by simp⟩⟩, fun x => ?_, by simp, ?_, ?_⟩
      · dsimp only at x; rw [hst] at x; cases x
      · dsimp only at x; split at x
        · cases x
        · next hn => exact absurd x hn
      · rw [b5]; cases hx : (s.burst c).state <;> simp
      · rw [b6]; cases hx : (s.burst c).state <;> simp
    · rw [burst_setBurst_same]; exact hi
    · rw [burst_setBurst_same]
    · rintro j hj; injection hj with hj; subst hj; exact hbi

/-- What deciding the mode leaves of the burst: its mode is decided, its slot, window and capture as they were. -/
theorem decideMode_burst (c : Channel) (w : Window) (s : State) :
    ((decideMode c w s).burst c).mode ≠ .undecided ∧ ((decideMode c w s).burst c).slot = (s.burst c).slot ∧
    ((decideMode c w s).burst c).window = (s.burst c).window ∧
    ((decideMode c w s).burst c).state.inProgress = (s.burst c).state.inProgress := by
  unfold decideMode
  dsimp only
  split <;> (rw [emit_burst, burst_setBurst_same])
  · exact ⟨by simp, rfl, rfl, rfl⟩
  · refine ⟨by simp, rfl, rfl, ?_⟩
    cases (s.burst c).state <;> rfl

theorem preambleDone_holders {s : State} (h : s.HoldersAgree) (c : Channel) : (preambleDone c s).HoldersAgree := by
  unfold preambleDone
  split
  · next w hu =>
    split
    · next hm => exact decideMode_holders h hu hm
    · exact h
  · exact h

theorem symbol_holders {s : State} (h : s.HoldersAgree) (c : Channel) (x : Cplx) (r : Option Cplx) :
    (symbol c x r s).HoldersAgree := by
  unfold symbol
  split
  · exact h
  · split
    · next e _ he =>
      refine State.HoldersAgree.of_kept ?_ (kept_emit none _ c _)
      have hr := handle_same (s.engine e) x r
      obtain ⟨hl, -⟩ := (h.granted c e).1 he
      obtain ⟨g1, g2, g3⟩ := (h.engines e).live hl
      have h1 : (s.setEngine e ((s.engine e).handle x r)).HoldersAgree := by
        refine h.setEngine hr.state hr.channel hr.slot hr.kind ⟨fun y => ?_, fun _ => ⟨?_, ?_, hr.working g3⟩, fun y => ?_⟩
        · rw [hr.state, hl] at y; cases y
        · rw [hr.channel]; exact g1
        · rw [hr.slot]; exact g2
        · rw [hr.state, hl] at y; cases y
      refine h1.setBurst rfl rfl (Or.inr ⟨rfl, rfl⟩) ?_
      have hb := h.bursts c
      cases hb
      constructor <;> assumption
    · exact h.of_kept (kept_emit none _ c _)
    · exact h

theorem claim_holders {s : State} (h : s.HoldersAgree) (c : Channel) (t : Token) (v : Bool) :
    (claim c t v s).HoldersAgree := by
  unfold claim
  split
  · refine h.setBurst rfl rfl (Or.inr ⟨rfl, rfl⟩) ?_
    have hb := h.bursts c
    cases hb
    constructor <;> assumption
  · exact h

/-! ### The end of a burst -/

/-- Without a request of the channel there is nothing to withdraw. -/
theorem withdraw_none {s0 s : State} (h : s0.HoldersAgree) {c : Channel} (k : Kept (some c) s0 s)
    (he : (s0.burst c).engine ≠ .requested) : withdrawRequest c s = s := by
  have hn : c ∉ s.waiting.map EngineRequest.channel := fun x => he ((h.requested c).2 (by rw [← k.waiting]; exact x))
  have : s.waiting.filter (fun q => q.channel ≠ c) = s.waiting := List.filter_eq_self.2 fun q hq => by
    simpa using fun x => hn (List.mem_map.2 ⟨q, hq, x⟩)
  simp only [withdrawRequest, this]

/-- What a burst leaves when it hands on its record and engine: the channel, left out, holds nothing any more, and its
burst context and the time points are as they were. -/
structure HandsOn (c : Channel) (s0 s t : State) : Prop where
  but : HoldersBut (some c) none none none t
  burst : t.burst c = s0.burst c
  points : t.points = s.points

theorem endPlain_holders {s0 s : State} (h : s0.HoldersAgree) {c : Channel} {i : Slot} (hi : (s0.burst c).slot = some i)
    (he : (s0.burst c).engine ≠ .requested) (k : Kept (some c) s0 s) :
    HandsOn c s0 s (endPlain (s0.burst c) i s) := by
  have hd := drop_holders h hi k
  unfold dropUnicast at hd
  rw [withdraw_none h k he] at hd
  exact ⟨hd.1, hd.2.1, hd.2.2⟩

/-- The engine of a burst begins to settle for the burst's record. -/
theorem startSettling_holders {s0 s : State} (h : s0.HoldersAgree) {c : Channel} {i : Slot} {e : EngineId}
    (hi : (s0.burst c).slot = some i) (he : (s0.burst c).engine = .granted e) (k : Kept (some c) s0 s)
    (hw : s.waiting = []) (hret : (s.station i).state ≠ .retiring) (o : Offsets) :
    HandsOn c s0 s (startSettling e i o s) := by
  have h1 := (h.butGranted he hi).of_kept k
  obtain ⟨hl, hc⟩ := (h.granted c e).1 he
  obtain ⟨-, g2, g3⟩ := (h.engines e).live hl
  have hsl : (s.engine e).slot = some i := by rw [k.engine, (h.service c e he).1, hi]
  have hwk : (s.engine e).working.isSome = true := by rw [k.engine]; exact g3
  obtain ⟨x, hx⟩ : ∃ x, x = (s.engine e).beginSettling s.counter o := ⟨_, rfl⟩
  have x1 : x.state = .settling := by rw [hx]; rfl
  have x3 : x.slot = some i := by rw [hx]; exact hsl
  have hxa : EngineAgrees x := by
    refine ⟨fun y => (by rw [x1] at y; cases y), fun y => (by rw [x1] at y; cases y), fun _ => ⟨?_, ?_, ?_, ?_, ?_, ?_⟩⟩
    · rw [hx]; rfl
    · rw [x3]; rfl
    · rw [hx]; exact hwk
    · rw [hx]; exact hwk
    · rw [hx]; rfl
    · rw [hx]; rfl
  unfold startSettling
  rw [← hx]
  obtain ⟨r, hr⟩ : ∃ r : Station, r = { s.station i with binding := .settling e } := ⟨_, rfl⟩
  rw [← hr]
  have r1 : r.binding = .settling e := by rw [hr]
  have r2 : r.state = (s.station i).state := by rw [hr]
  have hbi : (s.station i).binding = .burst c := by rw [k.binding]; exact (h.heldByBurst i c).2 hi
  have hnf : (s.station i).state ≠ .free := fun y => by
    have := h1.free i y
    rw [this] at hbi
    cases hbi
  obtain ⟨t, htd⟩ : ∃ t, t = (s.setEngine e x).setStation i r := ⟨_, rfl⟩
  rw [← htd]
  have hen : ∀ j, t.engine j = if e = j then x else s.engine j := fun j => by rw [htd]; exact engine_setEngine s e j x
  have hbu : ∀ j, t.burst j = s.burst j := fun _ => by rw [htd]; rfl
  have hst : ∀ j, t.station j = if i = j then r else s.station j := fun j => by
    rw [htd]; exact station_setStation (s.setEngine e x) i j r
  have hpo : ∀ j, t.point j = s.point j := fun _ => by rw [htd]; rfl
  have hwt : t.waiting = [] := by rw [htd]; exact hw
  have hct : t.Counted := by rw [htd]; exact counted_setStation (s := s.setEngine e x) h1.counts (by rw [hr]; rfl)
  refine ⟨?_, by rw [hbu]; exact k.burst c, by rw [htd]; rfl⟩
  have hj : ∀ j, (s.engine j).slot = some i → (s.engine j).state ≠ .settling := fun j y z => by
    have hne : some e ≠ some j := fun q => by
      injection q with q
      subst q
      rw [k.engine, hl] at z
      cases z
    have := (h1.heldBySettling i j hne).2 ⟨z, y⟩
    rw [hbi] at this
    cases this
  obtain ⟨a1, a2, a3, a4, a5, a6, a7, a8, a9, a10, a11, a12, a13, a14, a15, a16, a17, a18, a19⟩ := h1
  rw [hw] at a11 a12 a13 a14
  clear hx hr hwk hsl g2 g3
  constructor <;> (try simp only [hen, hst, hbu, hpo, hwt]) <;> first | exact hct | grind

/-- A completion hands the record on while the channel and its engine, if it has one, are left out. -/
theorem complete_handsOn {s0 s : State} (h : s0.HoldersAgree) {c : Channel} {Y : Option EngineId} {p : Report}
    (hi : (s0.burst c).slot = some p.slot) (hb : HoldersBut (some c) (some p.slot) Y none s) (k : Kept (some c) s0 s) :
    HoldersBut (some c) none Y none (complete p s) ∧ (complete p s).burst c = s0.burst c ∧
      (complete p s).points = s.points := by
  have hbind : (s.station p.slot).binding = .burst c := by rw [k.binding]; exact (h.heldByBurst _ c).2 hi
  have hf := complete_frame p s
  refine ⟨hb.complete (by rw [hbind]; simp) (fun d x => ?_) (fun d x => ?_) (Or.inr fun z hz => ?_) (Or.inl rfl), ?_,
    hf.points⟩
  · rw [hbind] at x; injection x with x; rw [x]
  · rw [hbind] at x; cases x
  · injection hz with hz; exact hz.symm
  · rw [← k.burst c]; simp only [State.burst, hf.bursts]

theorem releaseEngine_points (e : EngineId) (s : State) : (releaseEngine e s).points = s.points :=
  (releaseEngine_frame e s).points

theorem endMaint_holders {s0 s : State} (h : s0.HoldersAgree) {c : Channel} {i : Slot}
    (hi : (s0.burst c).slot = some i) (he : (s0.burst c).engine ≠ .requested) (k : Kept (some c) s0 s)
    (hret : (s.station i).state ≠ .retiring) (o : Offsets) : HandsOn c s0 s (endMaint (s0.burst c) i o s) := by
  have rel (e : EngineId) (heng : (s0.burst c).engine = .granted e) (p : Report) (hp : p.slot = i) :
      HandsOn c s0 s (releaseEngine e (complete p s)) := by
    subst hp
    have h1 := complete_handsOn (p := p) h hi ((h.butGranted heng hi).of_kept k) k
    exact ⟨h1.1.releaseEngine, h1.1.releaseEngine_burst.trans h1.2.1, (releaseEngine_points e _).trans h1.2.2⟩
  unfold endMaint
  split
  · next e heng =>
    unfold endMaintOnEngine
    dsimp only
    split
    · split
      · next hw =>
        exact startSettling_holders h hi heng k (by simpa using hw) hret o
      · exact rel e heng _ rfl
    · exact rel e heng _ rfl
  · next hne =>
    have hnone : (s0.burst c).engine = .none := by
      cases hx : (s0.burst c).engine with
      | none => rfl
      | requested => exact absurd hx he
      | granted e => exact absurd hx (hne e)
    have hb := (h.butNone hnone).of_kept k
    rw [hi] at hb
    have h1 := complete_handsOn (p := bypassReport i o) h hi hb k
    exact ⟨h1.1, h1.2.1, h1.2.2⟩

theorem endRecord_holders {s0 s : State} (h : s0.HoldersAgree) {c : Channel} {i : Slot} (w : Window)
    (hi : (s0.burst c).slot = some i) (he : (s0.burst c).engine ≠ .requested) (k : Kept (some c) s0 s) (p f : Int) :
    HandsOn c s0 s (endRecord (s0.burst c) w i p f s) := by
  have hbi := (h.heldByBurst i c).2 hi
  have hnf : (s.station i).state ≠ .free := fun y => by
    have h1 := k.free i y
    have h2 := h.free i (by rw [← h1]; exact y)
    rw [h2] at hbi
    cases hbi
  unfold endRecord
  split
  · exact endPlain_holders h hi he k
  · next hret =>
    split
    · split
      · have h1 := endPlain_holders h hi he (k.trans (kept_countMiss i s))
        exact ⟨h1.but, h1.burst, h1.points.trans (countMiss_frame i s).points⟩
      · exact endPlain_holders h hi he k
    · dsimp only
      have kw := kept_writeMeasured (X := some c) w.grant (measure (s0.burst c) w p f) hnf
      have hpt := (writeMeasured_frame i w.grant (measure (s0.burst c) w p f) s).points
      split
      · have h1 := endMaint_holders h hi he (k.trans kw) (fun y => hret (kw.retiring i y)) (measure (s0.burst c) w p f)
        exact ⟨h1.but, h1.burst, h1.points.trans hpt⟩
      · have h1 := endPlain_holders h hi he (k.trans kw)
        exact ⟨h1.but, h1.burst, h1.points.trans hpt⟩

theorem emitTrailer_points (c : Channel) (b : Burst) (o : BurstOutcome) (s : State) :
    (emitTrailer c b o s).points = s.points := by
  unfold emitTrailer; split <;> rfl

/-- A burst context ends, its channel holding nothing any more. -/
theorem HoldersBut.ended {c : Channel} {s0 t : State} (h0 : s0.HoldersAgree) (h : HoldersBut (some c) none none none t)
    (hb : t.burst c = s0.burst c) (hp : (s0.burst c).state.inProgress = true) (he : (s0.burst c).engine ≠ .requested)
    (h1 : (t.point c).close = (s0.point c).close) (h2 : (t.point c).grace = none) :
    (t.setBurst c (t.burst c).ended).HoldersAgree := by
  rw [hb]
  refine (h.setBurst _).close ?_ ?_ ?_
  · rw [burst_setBurst_same]
    exact ended_agrees (h0.bursts c) hp (notWaiting (h0.bursts c) he) h1 h2
  · rw [burst_setBurst_same]; rfl
  · rw [burst_setBurst_same]; rfl

theorem endUnicast_holders {s : State} (h : s.HoldersAgree) {c : Channel} {i : Slot} (w : Window)
    (hp : (s.burst c).state.inProgress = true) (hi : (s.burst c).slot = some i)
    (he : (s.burst c).engine ≠ .requested) (p f : Int) : (endUnicast c w i p f s).HoldersAgree := by
  have h1 := endRecord_holders h w hi he (kept_endGrace c s) p f
  unfold endUnicast
  dsimp only
  have ke := kept_emitTrailer (some c) c (s.burst c) (s.burst c).outcome (endRecord (s.burst c) w i p f (endGrace c s))
  have hpt : (emitTrailer c (s.burst c) (s.burst c).outcome (endRecord (s.burst c) w i p f (endGrace c s))).point c =
      { s.point c with grace := none } := by
    rw [points_eq ((emitTrailer_points _ _ _ _).trans h1.points)]
    exact point_setPoint_same _ _ _
  exact (h1.but.of_kept ke).ended h ((ke.burst c).trans h1.burst) hp he (by rw [hpt]) (by rw [hpt])

theorem endContention_holders {s : State} (h : s.HoldersAgree) {c : Channel} {w : Window}
    (hu : contentionInProgress (s.burst c) = some w) (p f : Int) : (endContention c w p f s).HoldersAgree := by
  obtain ⟨hp, hs, he⟩ := contention_spec h hu
  have hb := (h.butNone he).of_kept (kept_endGrace c s)
  rw [hs] at hb
  have hpt : (endGrace c s).point c = { s.point c with grace := none } := point_setPoint_same _ _ _
  have fin (t : State) (k : Kept (some c) (endGrace c s) t) (hpo : t.points = (endGrace c s).points) :
      (t.setBurst c (s.burst c).ended).HoldersAgree := by
    have hbt : t.burst c = s.burst c := (k.burst c).trans ((kept_endGrace c s).burst c)
    rw [← hbt]
    exact (hb.of_kept k).ended h hbt hp (by rw [he]; simp) (by rw [points_eq hpo, hpt]) (by rw [points_eq hpo, hpt])
  unfold endContention
  dsimp only
  split
  · next x _ =>
    refine fin _ ?_ ?_
    · unfold takeClaim
      repeat' split
      all_goals exact .of_stations rfl rfl rfl rfl rfl fun _ _ => ⟨rfl, rfl⟩
    · unfold takeClaim
      repeat' split
      all_goals rfl
  · exact fin _ (.refl _ _) rfl

theorem burstEnd_holders {s : State} (h : s.HoldersAgree) (c : Channel) (p f : Int) : (burstEnd c p f s).HoldersAgree := by
  unfold burstEnd
  split
  · next w hu => exact endContention_holders h hu p f
  · split
    · next w i hu hi =>
      obtain ⟨hp, hw, -, -, -, hb, he⟩ := unicast_spec h hu
      split
      · next hm =>
        have h1 := decideMode_holders h hu hm
        obtain ⟨d1, d2, d3, d4⟩ := decideMode_burst c w s
        refine endUnicast_holders h1 w (d4.trans hp) (d2.trans hi) ?_ p f
        have hu1 : unicastInProgress ((decideMode c w s).burst c) = some w := by
          unfold unicastInProgress at hu ⊢
          rw [d3, d4]
          exact hu
        obtain ⟨-, -, -, -, -, hb1, he1⟩ := unicast_spec h1 hu1
        intro x
        cases hm1 : ((decideMode c w s).burst c).mode with
        | undecided => exact d1 hm1
        | bypass => rw [hb1.1 hm1] at x; cases x
        | equalised => obtain ⟨e, y⟩ := he1 hm1; rw [y] at x; cases x
      · next hm =>
        refine endUnicast_holders h w hp hi (fun x => ?_) p f
        cases hm1 : (s.burst c).mode with
        | undecided => exact hm hm1
        | bypass => rw [hb.1 hm1] at x; cases x
        | equalised => obtain ⟨e, y⟩ := he hm1; rw [y] at x; cases x
    · exact h

/-! ### Windows -/

theorem expireGrace_holders {s : State} (h : s.HoldersAgree) (c : Channel) : (expireGrace c s).HoldersAgree := by
  unfold expireGrace
  by_cases hg : (s.burst c).state = .grace
  · obtain ⟨h1, h2, h3⟩ := truncate_holders h hg (kept_endGrace c s)
    have hpt : (endGrace c s).point c = { s.point c with grace := none } := point_setPoint_same _ _ _
    refine h1.close ?_ ?_ ?_
    · rw [h2, h3, hpt]
      exact ended_agrees (h.bursts c) (by rw [hg]; rfl) (by rw [hg]; simp) rfl rfl
    · rw [h2]; rfl
    · rw [h2]; rfl
  · have hgn : (s.point c).grace = none := by
      have := (h.bursts c).inGrace
      cases hx : (s.point c).grace with
      | none => rfl
      | some t => exact absurd (this.1 (by rw [hx]; rfl)) hg
    have : endGrace c s = s := by
      unfold endGrace
      rw [show ({ s.point c with grace := none } : TimePoints) = s.point c by
        cases hx : s.point c; rw [hx] at hgn; dsimp only at hgn; rw [hgn]]
      exact setPoint_self s c
    rw [this]
    unfold truncate
    dsimp only
    split
    · next hx _ => exact absurd hx hg
    · exact h

/-- A channel with no window open and no burst in grace has a CLOSED sequencer. -/
theorem closed_of {b : Burst} {p : TimePoints} (h : BurstAgrees b p) (hc : p.close = none) (hg : b.state ≠ .grace) :
    b.state = .closed ∧ b.slot = none ∧ b.engine = .none ∧ p.grace = none := by
  have h1 := h.windowOpen
  have h2 := h.inGrace
  rw [hc] at h1
  have hs : b.state = .closed := by cases hx : b.state <;> simp_all
  obtain ⟨i1, i2⟩ := h.idle (by rw [hs]; rfl)
  refine ⟨hs, i1, i2, ?_⟩
  cases hx : p.grace with
  | none => rfl
  | some t => rw [hx] at h2; exact absurd (h2.1 rfl) hg

theorem takeUp_agrees (b : Burst) (w : Window) (hs : b.slot = none) (he : b.engine = .none) {p : TimePoints}
    (hc : p.close.isSome = true) (hg : p.grace = none) : BurstAgrees (b.takeUp w) p := by
  unfold Burst.takeUp
  by_cases hk : w.kind = .void
  · rw [if_pos hk]
    constructor <;> simp_all [SequencerState.inProgress]
  · rw [if_neg hk]
    constructor <;> simp_all [SequencerState.inProgress]

theorem openWindow_holders {s : State} (h : s.HoldersAgree) (c : Channel) (g : Grant) (hc : (s.point c).close = none) :
    (openWindow c g s).HoldersAgree := by
  obtain ⟨p, hpd⟩ : ∃ p : TimePoints, p = { s.point c with opening := none, close := some g.stop } := ⟨_, rfl⟩
  have p1 : p.close.isSome = true := by rw [hpd]; rfl
  have p2 : p.grace = (s.point c).grace := by rw [hpd]
  unfold openWindow
  dsimp only
  rw [← hpd]
  obtain ⟨w, -⟩ : ∃ w, w = resolveGrant s c g := ⟨_, rfl⟩
  obtain ⟨m, -⟩ : ∃ m : ChannelMap, m = { s.map c with position := nextPosition (s.map c) } := ⟨_, rfl⟩
  by_cases hg : (s.burst c).state = .grace
  · have k : Kept (some c) s ((s.setMap c { s.map c with position := nextPosition (s.map c) }).setPoint c p) :=
      (kept_setMap (some c) s c _).trans (kept_setPoint _ c p)
    obtain ⟨h1, h2, h3⟩ := truncate_holders h hg k
    refine (h1.setBurst _).close ?_ ?_ ?_
    · rw [burst_setBurst_same, h2]
      show BurstAgrees _ ((truncate c _).point c)
      rw [h3]
      refine takeUp_agrees _ _ rfl rfl ?_ rfl
      rw [point_setPoint_same]
      exact p1
    · rw [burst_setBurst_same, h2]; rfl
    · rw [burst_setBurst_same, h2]; rfl
  · obtain ⟨hs, i1, i2, i3⟩ := closed_of (h.bursts c) hc hg
    have hk := h.of_kept (kept_setMap none s c { s.map c with position := nextPosition (s.map c) })
    have : truncate c ((s.setMap c { s.map c with position := nextPosition (s.map c) }).setPoint c p) =
        (s.setMap c { s.map c with position := nextPosition (s.map c) }).setPoint c p := by
      unfold truncate
      dsimp only
      split
      · next hx _ => exact absurd hx hg
      · rfl
    rw [this]
    exact hk.updateBurst (c := c) (p := p) rfl rfl (Or.inl i2)
      (takeUp_agrees (s.burst c) _ i1 i2 p1 (p2.trans i3))

theorem waitingGrant_close {s : State} {c : Channel} {g : Grant} (h : waitingGrant s c = some g) :
    (s.point c).close = none := by
  unfold waitingGrant at h
  split at h
  · cases h
  · next hx => simpa using hx

theorem openingNow_waiting {s : State} {c : Channel} {g : Grant} (h : openingNow s c = some g) :
    waitingGrant s c = some g := by
  unfold openingNow at h
  split at h
  · next x hx =>
    split at h
    · injection h with h; rw [hx, h]
    · cases h
  · cases h

theorem setOpening_holders {s : State} (h : s.HoldersAgree) (c : Channel) : (setOpening c s).HoldersAgree :=
  h.of_kept (kept_setPoint_same rfl rfl)

theorem testOpening_holders {s : State} (h : s.HoldersAgree) (c : Channel) : (testOpening c s).HoldersAgree := by
  unfold testOpening
  split
  · next g hg => exact openWindow_holders h c g (waitingGrant_close (openingNow_waiting hg))
  · exact setOpening_holders h c

theorem kept_missUnused (X : Option Channel) (c : Channel) (b : Burst) (s : State) : Kept X s (missUnused c b s) := by
  unfold missUnused
  split
  · exact .refl X s
  · split
    · split
      · exact kept_countMiss _ s
      · exact .refl X s
    · exact .refl X s

theorem sequencerClose_holders {s : State} (h : s.HoldersAgree) (c : Channel) {close : Tick}
    (hc : (s.point c).close = some close) :
    (sequencerClose c close (s.setPoint c { s.point c with close := none })).HoldersAgree := by
  obtain ⟨b1, b2, b3, b4, b5, b6⟩ := h.bursts c
  have hpt : (s.setPoint c { s.point c with close := none }).point c = { s.point c with close := none } :=
    point_setPoint_same _ _ _
  have hbu : (s.setPoint c { s.point c with close := none }).burst c = s.burst c := rfl
  unfold sequencerClose
  dsimp only
  rw [hbu]
  split
  · next hs =>
    obtain ⟨i1, i2⟩ := b1 (by rw [hs]; rfl)
    have hk := h.of_kept (kept_missUnused none c (s.burst c) s)
    have hf : missUnused c (s.burst c) (s.setPoint c { s.point c with close := none }) =
        (missUnused c (s.burst c) s).setPoint c { s.point c with close := none } := by
      unfold missUnused
      split
      · rfl
      · split
        · split
          · next ha => rw [if_pos (by exact ha)]; exact countMiss_setPoint _ _ _ _
          · next ha => rw [if_neg (by exact ha)]
        · rfl
    rw [hf]
    have kb := (kept_missUnused none c (s.burst c) s).burst c
    refine hk.updateBurst (c := c) (b := { s.burst c with state := .closed, window := none })
      (p := { s.point c with close := none }) (by rw [kb]) (by rw [kb]) (Or.inl i2) ?_
    refine ⟨fun _ => ⟨i1, i2⟩, by simp [SequencerState.inProgress], by simp, by simp, by simp, ?_⟩
    rw [b6, hs]; simp
  · next hs =>
    have := h.updateBurst (c := c) (b := { s.burst c with state := .grace })
      (p := { s.point c with close := none, grace := some (close + 64) }) rfl rfl (Or.inr ⟨rfl, rfl⟩)
      ⟨by simp [SequencerState.inProgress], fun _ => b2 (by rw [hs]; rfl), by simp, by simp, by simp, by simp⟩
    rw [hpt]
    rwa [setBurst_setPoint, setPoint_setPoint]
  · next hs =>
    have := h.updateBurst (c := c) (b := { s.burst c with state := .grace })
      (p := { s.point c with close := none, grace := some (close + 64) }) rfl rfl (Or.inr ⟨rfl, rfl⟩)
      ⟨by simp [SequencerState.inProgress], fun _ => b2 (by rw [hs]; rfl), by simp, by simp, by simp, by simp⟩
    rw [hpt]
    rwa [setBurst_setPoint, setPoint_setPoint]
  · next hs =>
    obtain ⟨i1, i2⟩ := b1 (by rw [hs]; rfl)
    refine h.updateBurst (c := c) (b := { s.burst c with window := none }) (p := { s.point c with close := none })
      rfl rfl (Or.inl i2) ⟨fun _ => ⟨i1, i2⟩, ?_, ?_, ?_, ?_, ?_⟩
    · dsimp only; rw [hs]; simp [SequencerState.inProgress]
    · dsimp only; rw [hs]; simp
    · dsimp only; rw [hs]; simp
    · dsimp only; rw [hs]; simp
    · exact b6
  · next hs =>
    rw [hs, hc] at b5
    simp at b5

theorem closeWindow_holders {s : State} (h : s.HoldersAgree) (c : Channel) {close : Tick}
    (hc : (s.point c).close = some close) : (closeWindow c close s).HoldersAgree :=
  testOpening_holders (sequencerClose_holders h c hc) c

theorem promote_holders {s : State} (h : s.HoldersAgree) (c : Channel) (m : BurstMap) : (promote c m s).HoldersAgree :=
  testOpening_holders (h.of_kept ((kept_setMap none s c ⟨.running, some m, if m.grants.isEmpty then none else some 0, .empty⟩).trans
    (kept_setPoint_same (p := { s.point c with mapEnd := some m.stop }) rfl rfl))) c

theorem starve_holders {s : State} (h : s.HoldersAgree) (c : Channel) : (starve c s).HoldersAgree :=
  h.of_kept ((kept_setMap none s c _).trans (kept_setPoint_same rfl rfl))

theorem reachMapEnd_holders {s : State} (h : s.HoldersAgree) (c : Channel) : (reachMapEnd c s).HoldersAgree := by
  unfold reachMapEnd
  split
  · exact (promote_holders h c _).of_kept (.of_stations rfl rfl rfl rfl rfl fun _ _ => ⟨rfl, rfl⟩)
  · exact starve_holders h c
  · exact starve_holders h c

/-- An event that time has raised is taken. -/
theorem take_holders {s : State} (h : s.HoldersAgree) {x : TimeEvent} (hx : x.raised s = true) :
    (x.take s).HoldersAgree := by
  cases x with
  | windowOpen c =>
    show (openReached c s).HoldersAgree
    unfold openReached
    split
    · next g hg => exact openWindow_holders h c g (waitingGrant_close hg)
    · exact h
  | windowClose c =>
    simp only [TimeEvent.raised, reached, decide_eq_true_eq] at hx
    exact closeWindow_holders h c hx
  | graceExpiry c => exact expireGrace_holders h c
  | mapEnd c => exact reachMapEnd_holders h c

theorem takeIfRaised_holders {s : State} (h : s.HoldersAgree) (x : TimeEvent) : (takeIfRaised x s).HoldersAgree := by
  unfold takeIfRaised
  split
  · next hx => exact take_holders h hx
  · exact h

/-- What is picked stands in the list, and only the count of choices may have changed. -/
theorem pick_spec {α : Type} {s t : State} {l : List α} {x : α} (h : s.pick l = (some x, t)) :
    x ∈ l ∧ ∃ n, t = { s with choices := n } := by
  unfold State.pick at h
  split at h
  · injection h with h; cases h
  · injection h with h1 h2
    injection h1 with h1
    exact ⟨by rw [h1]; simp, s.choices, h2.symm⟩
  · injection h with h1 h2
    exact ⟨List.mem_of_getElem? h1, _, h2.symm⟩

theorem raised_of_mem {s : State} {x : TimeEvent} (h : x ∈ raisedEvents s) : x.raised s = true := by
  unfold raisedEvents raisedOn at h
  rw [List.mem_flatMap] at h
  obtain ⟨c, -, hc⟩ := h
  exact (List.mem_filter.1 hc).2

theorem takeRaised_holders {s : State} (h : s.HoldersAgree) (n : Nat) : (takeRaised n s).HoldersAgree := by
  induction n generalizing s with
  | zero => exact h
  | succ n ih =>
    unfold takeRaised
    split
    · exact h
    · next x t heq =>
      obtain ⟨hm, m, rfl⟩ := pick_spec heq
      have hr : x.raised ({ s with choices := m } : State) = true := raised_of_mem hm
      exact ih (take_holders (h.of_kept (kept_choices s m)) hr)

theorem openNow_holders {s : State} (h : s.HoldersAgree) (n : Nat) : (openNow n s).HoldersAgree := by
  induction n generalizing s with
  | zero => exact h
  | succ n ih =>
    unfold openNow
    split
    · exact h
    · next c t heq =>
      obtain ⟨-, m, rfl⟩ := pick_spec heq
      exact ih (testOpening_holders (h.of_kept (kept_choices s m)) c)

theorem testAll_holders {s : State} (h : s.HoldersAgree) : (testAll s).HoldersAgree :=
  openNow_holders (setOpening_holders (setOpening_holders (setOpening_holders (setOpening_holders h 0) 1) 2) 3) 4

/-! ### Channel reset -/

theorem resetChannel_holders {s : State} (h : s.HoldersAgree) (c : Channel) : (resetChannel c s).HoldersAgree := by
  have fin (t : State) (ht : HoldersBut (some c) none none none t) :
      (((t.setBurst c .reset).setMap c .reset).setPoint c .reset).HoldersAgree := by
    refine HoldersBut.close (((ht.setBurst _).of_kept (kept_setMap (some c) _ c _)).of_kept (kept_setPoint _ c _)) ?_ ?_ ?_
    · rw [point_setPoint_same]
      show BurstAgrees ((t.setBurst c .reset).burst c) _
      rw [burst_setBurst_same]
      constructor <;> simp [Burst.reset, TimePoints.reset, SequencerState.inProgress]
    · show ((t.setBurst c .reset).burst c).slot = _; rw [burst_setBurst_same]; rfl
    · show ((t.setBurst c .reset).burst c).engine = _; rw [burst_setBurst_same]; rfl
  unfold resetChannel abandon
  dsimp only
  split
  · next w i hu hi =>
    have hd := drop_holders h hi (Kept.refl (some c) s)
    exact fin _ (hd.1.of_kept (kept_emitTrailer _ _ _ _ _))
  · next hno =>
    have hn : (s.burst c).slot = none ∧ (s.burst c).engine = .none := by
      cases hp : (s.burst c).state.inProgress with
      | false => exact (h.bursts c).idle hp
      | true =>
        obtain ⟨-, w, hw, hcase⟩ := (h.bursts c).busy hp
        rcases hcase with hc | hc
        · obtain ⟨i, hi⟩ := Option.isSome_iff_exists.1 hc.2.2.1
          exact absurd hi (hno w i (by unfold unicastInProgress; rw [hw]; dsimp only; rw [hp, hc.1]; rfl))
        · exact hc.2
    have := h.butNone hn.2
    rw [hn.1] at this
    exact fin _ this

/-! ### Requests -/

theorem withSid_holders {s : State} (h : s.HoldersAgree) (v : BitVec 16) (act : Slot → State → Reply × State)
    (ha : ∀ sid i, s.sidEntry sid = some i → (act i s).2.HoldersAgree) : (withSid v act s).2.HoldersAgree := by
  unfold withSid
  split
  · exact h
  · split
    · exact h
    · next i hi => exact ha _ i hi

theorem withChannel_holders {s : State} (h : s.HoldersAgree) (v : Byte) (act : Channel → State → Reply × State)
    (ha : ∀ c, (act c s).2.HoldersAgree) : (withChannel v act s).2.HoldersAgree := by
  unfold withChannel
  split
  · exact ha _
  · exact h

/-- A record that the SID Map names is not FREE. -/
theorem named_notFree {s : State} (hr : s.RecordsAgree) {v : Sid} {i : Slot} (h : s.sidEntry v = some i) :
    (s.station i).state ≠ .free ∧ (s.station i).state ≠ .retiring := by
  have := ((hr.directory.named v i).1 h).1
  constructor <;> (intro e; rw [e] at this; cases this)

/-- A record with a correction is not FREE. -/
theorem corrected_notFree {s : State} (hr : s.RecordsAgree) {i : Slot} (h : (s.station i).correction ≠ .none) :
    (s.station i).state ≠ .free := by
  intro e
  exact h (hr.corrections.unserved i (by rw [e]; rfl)).1

theorem held_notFree {s : State} (hr : s.RecordsAgree) {i : Slot} (h : i ∈ s.held) : (s.station i).state ≠ .free :=
  corrected_notFree hr (by rw [(hr.corrections.held i).2 h]; simp)

theorem queued_notFree {s : State} (hr : s.RecordsAgree) {e : Correction} (h : e ∈ s.queue) :
    (s.station e.slot).state ≠ .free :=
  corrected_notFree hr (by rw [(hr.corrections.queued e.slot).2 (List.mem_map_of_mem h)]; simp)

/-- A write that leaves state, binding and attention, and the channel of a bound record. -/
theorem set_holders {s : State} (h : s.HoldersAgree) {i : Slot} {r : Station} (hf : (s.station i).state ≠ .free)
    (h1 : r.state = (s.station i).state) (h2 : r.binding = (s.station i).binding)
    (h3 : r.attention = (s.station i).attention)
    (h4 : (s.station i).binding ≠ .none → r.channel = (s.station i).channel) : (s.setStation i r).HoldersAgree :=
  h.of_kept (.set h3 h2 h4 (by rw [h1]; exact hf) (by rw [h1]; exact id))

/-- What the settings of a list leave of a record; the channel too, when only those that a bound record takes stand in
the list. -/
theorem applySetting_keeps {r r' : Station} {x : Setting} (h : applySetting r x = some r') :
    r'.state = r.state ∧ r'.binding = r.binding ∧ r'.attention = r.attention ∧
    (Setting.allowedBound x = true → r'.channel = r.channel) := by
  unfold applySetting at h
  split at h <;> (try split at h) <;> (try (cases h; done)) <;>
    (injection h with h; subst h; exact ⟨rfl, rfl, rfl, fun y => by first | rfl | cases y⟩)

theorem applySettings_keeps {l : List Setting} : ∀ {r r' : Station}, applySettings r l = some r' →
    r'.state = r.state ∧ r'.binding = r.binding ∧ r'.attention = r.attention ∧
    (l.all Setting.allowedBound = true → r'.channel = r.channel) := by
  induction l with
  | nil => intro r r' h; injection h with h; subst h; exact ⟨rfl, rfl, rfl, fun _ => rfl⟩
  | cons x rest ih =>
    intro r r' h
    unfold applySettings at h
    split at h
    · next u hu =>
      obtain ⟨a1, a2, a3, a4⟩ := applySetting_keeps hu
      obtain ⟨b1, b2, b3, b4⟩ := ih h
      refine ⟨b1.trans a1, b2.trans a2, b3.trans a3, fun y => ?_⟩
      rw [List.all_cons, Bool.and_eq_true] at y
      exact (b4 y.2).trans (a4 y.1)
    · cases h

theorem lowestFree_spec {s : State} {i : Slot} (h : lowestFree s = some i) : (s.station i).state = .free := by
  have := List.find?_some h
  simpa using this

theorem admittedRecord_holder (s : State) (a : Admission) : (admittedRecord s a).state = .training ∧
    (admittedRecord s a).binding = .none ∧ (admittedRecord s a).attention = .empty := by
  unfold admittedRecord admittedProgramme armRecord
  split <;> exact ⟨rfl, rfl, rfl⟩

theorem kept_writeAdmission {s : State} (h : s.HoldersAgree) {i : Slot} (hi : (s.station i).state = .free)
    (a : Admission) : Kept none s (writeAdmission i a s) := by
  have he := h.free i hi
  obtain ⟨f1, f2, f3⟩ := admittedRecord_holder s a
  refine .write (i := i) (r := admittedRecord s a) rfl rfl rfl rfl rfl
    (fun k => counted_setStation k (by rw [f3, he]; rfl)) (by rw [f2, he]; rfl) (fun y => ?_) (by rw [f1]; simp)
    (by rw [f1]; simp)
  rw [he] at y
  exact absurd rfl y

theorem admitRequest_holders {s : State} (h : s.HoldersAgree) (body : AdmitBody) : (admitRequest body s).2.HoldersAgree := by
  unfold admitRequest
  split
  · split
    · exact h
    · next a _ =>
      unfold admitChecked
      split
      · exact h
      · split
        · exact h
        · next i hi =>
          have k := kept_writeAdmission h (lowestFree_spec hi) a
          have f1 := (admittedRecord_holder s a).1
          have hst : ((writeAdmission i a s).station i).state = .training := by
            rw [← f1]; exact congrArg Station.state (station_setStation_same s i _)
          split
          · exact h.of_kept k
          · split
            · exact h
            · next p _ =>
              refine h.of_kept (k.trans ?_)
              unfold admitFromProbe
              have k1 : Kept none (writeAdmission i a s) ((writeAdmission i a s).setStation i
                  { (writeAdmission i a s).station i with estimate := p.errors.clamped }) :=
                .set rfl rfl (fun _ => rfl) (by rw [hst]; simp) id
              have k2 (u : State) : Kept none u (removeProbe p.token u) :=
                .of_stations rfl rfl rfl rfl rfl fun _ _ => ⟨rfl, rfl⟩
              refine (k1.trans (k2 _)).trans (kept_requestCorrection (s := removeProbe p.token _) ?_)
              show (((writeAdmission i a s).setStation i _).station i).state ≠ _
              rw [station_setStation_same]
              show ((writeAdmission i a s).station i).state ≠ _
              rw [hst]; simp
  · exact h

/-- RETIRE by the record's holder. -/
theorem retireRecord_holders {s : State} (h : s.HoldersAgree) (i : Slot) :
    (retireRecord i s).HoldersAgree := by
  unfold retireRecord
  split
  · next hb =>
    refine HoldersBut.agree (Z := none) (W := none) (h.but.becomeFree (fun c x => ?_) (fun e x => ?_) (Or.inl rfl) (Or.inl rfl))
    · rw [hb] at x; cases x
    · rw [hb] at x; cases x
  · next e hb =>
    obtain ⟨h1, h2⟩ := (h.heldBySettling i e).1 hb
    have hx : HoldersBut none none (some e) none (becomeFree i s) := by
      refine (h.butEngine h1 h2).becomeFree (fun c x => ?_) (fun f x => ?_) (Or.inl rfl) (Or.inr fun z hz => ?_)
      · rw [hb] at x; cases x
      · rw [hb] at x; injection x with x; rw [x]
      · injection hz with hz; exact hz.symm
    exact hx.releaseEngine.agree
  · next c hb =>
    obtain ⟨r, hr⟩ : ∃ r : Station, r = { s.station i with state := .retiring } := ⟨_, rfl⟩
    rw [← hr]
    have r1 : r.binding = (s.station i).binding := by rw [hr]
    have r2 : r.state = .retiring := by rw [hr]
    have r3 : r.channel = (s.station i).channel := by rw [hr]
    obtain ⟨t, htd⟩ : ∃ t, t = s.setStation i r := ⟨_, rfl⟩
    rw [← htd]
    have hen : ∀ j, t.engine j = s.engine j := fun _ => by rw [htd]; rfl
    have hbu : ∀ j, t.burst j = s.burst j := fun _ => by rw [htd]; rfl
    have hst : ∀ j, t.station j = if i = j then r else s.station j := fun j => by rw [htd]; exact station_setStation s i j r
    have hpo : ∀ j, t.point j = s.point j := fun _ => by rw [htd]; rfl
    have hwt : t.waiting = s.waiting := by rw [htd]; rfl
    have hct : t.Counted := by rw [htd]; exact counted_setStation h.counts (by rw [hr])
    obtain ⟨a1, a2, a3, a4, a5, a6, a7, a8, a9, a10, a11, a12, a13, a14⟩ := h
    constructor <;> (try simp only [hen, hst, hbu, hpo, hwt]) <;> first | exact hct | grind

theorem kept_retireIdentity {s : State} (hr : s.RecordsAgree) {v : Sid} {i : Slot} (hf : (s.station i).state ≠ .free) :
    Kept none s (retireIdentity v i s) := by
  unfold retireIdentity
  dsimp only
  have k1 : Kept none s (s.setSidEntry v none) := .of_stations rfl rfl rfl rfl rfl fun _ _ => ⟨rfl, rfl⟩
  have k2 := k1.trans (kept_withdrawCorrection (X := none) (s := s.setSidEntry v none) (i := i) hf
    fun j hj => held_notFree hr hj)
  have hn2 : ((withdrawCorrection i (s.setSidEntry v none)).station i).state ≠ .free := by
    rw [(withdrawCorrection_identity _ _).state]; exact hf
  obtain ⟨u, hu⟩ : ∃ u, u = withdrawCorrection i (s.setSidEntry v none) := ⟨_, rfl⟩
  rw [← hu] at k2 hn2 ⊢
  have k3 := k2.trans (Kept.set (X := none) (i := i) (r := disarmRecord (u.station i)) rfl rfl (fun _ => rfl) hn2 id)
  exact k3.trans (kept_clearAttention (by rw [station_setStation_same]; exact hn2))

theorem retireRequest_holders {s : State} (h : s.HoldersAgree) (hr : s.RecordsAgree) (v : BitVec 16) :
    (retireRequest v s).2.HoldersAgree := by
  unfold retireRequest
  split
  · exact h
  · split
    · exact h
    · next i hi =>
      exact retireRecord_holders (h.of_kept (kept_retireIdentity hr (named_notFree hr hi).1)) i

/-- Every request keeps the holders in agreement. -/
theorem requestEffect_holders {s : State} (h : s.HoldersAgree) (hr : s.RecordsAgree) (i : Instr) :
    (requestEffect i s).2.HoldersAgree := by
  have same (t : State) (h0 : t.stations = s.stations) (h1 : t.counts = s.counts) (h2 : t.engines = s.engines)
      (h3 : t.bursts = s.bursts) (h4 : t.waiting = s.waiting) (h5 : t.points = s.points) : t.HoldersAgree :=
    h.of_kept (.of_stations h0 h1 h2 h3 h4 fun _ _ => by simp only [State.point, h5]; trivial)
  have hmap (c : Channel) (m : ChannelMap) : (s.setMap c m).HoldersAgree := h.of_kept (kept_setMap none s c m)
  cases i <;> try exact h
  case status => exact same _ rfl rfl rfl rfl rfl rfl
  case lookup v => exact withSid_holders h v _ fun _ _ _ => h
  case lookupSlot v => simp only [requestEffect, lookupSlotRequest]; split <;> exact h
  case scan v k =>
    simp only [requestEffect, scanRequest]
    split
    · split <;> exact h
    · exact h
  case writeStation v l =>
    simp only [requestEffect, writeStationRequest]
    split
    · split
      · refine withSid_holders h v _ fun sid i hi => ?_
        unfold writeStationAt
        split
        · split
          · exact h
          · next r hx =>
            split
            · exact h
            · next hb =>
              obtain ⟨k1, k2, k3, k4⟩ := applySettings_keeps hx
              refine set_holders h (named_notFree hr hi).1 k1 k2 k3 fun y => k4 ?_
              simp only [Bool.and_eq_true, Bool.not_eq_true', decide_eq_true_eq, not_and, Bool.not_eq_false] at hb
              exact hb y
        · exact h
      · exact h
    · exact h
  case admitStation b => exact admitRequest_holders h b
  case retire v => exact retireRequest_holders h hr v
  case ackAttention v ks =>
    simp only [requestEffect, ackAttentionRequest]
    split
    · refine withSid_holders h v _ fun sid i hi => ?_
      unfold ackAttentionAt
      split
      · exact h
      · exact h.of_kept (kept_dropKinds _ (named_notFree hr hi).1)
    · exact h
  case armProgramme v x =>
    refine withSid_holders h v _ fun sid i hi => ?_
    try dsimp only
    split
    · exact h
    · exact set_holders h (named_notFree hr hi).1 rfl rfl rfl fun _ => rfl
  case disarmProgramme v =>
    exact withSid_holders h v _ fun sid i hi => set_holders h (named_notFree hr hi).1 rfl rfl rfl fun _ => rfl
  case takeCorrection =>
    simp only [requestEffect, takeCorrectionRequest]
    split
    · exact h
    · next e rest hq =>
      exact h.of_kept (kept_takeEntry (queued_notFree hr (by rw [hq]; simp)) fun j hj => held_notFree hr hj)
  case probes p => simp only [requestEffect, probesRequest]; split <;> exact h
  case dismiss t =>
    simp only [requestEffect, dismissRequest]
    split
    · exact same _ rfl rfl rfl rfl rfl rfl
    · exact h
  case mapOpen c a b =>
    refine withChannel_holders h c _ fun c => ?_
    try dsimp only
    split
    · exact hmap _ _
    · exact h
  case mapGrant c a l v k =>
    refine withChannel_holders h c _ fun c => ?_
    try dsimp only
    split
    · exact h
    · unfold appendGrant
      repeat' first | split | exact h | exact hmap _ _
  case mapClose c =>
    refine withChannel_holders h c _ fun c => ?_
    try dsimp only
    split
    · exact h
    · exact h
    · split
      · exact h
      · split
        · split
          · exact promote_holders h _ _
          · exact hmap _ _
        · exact h
  case mapAbandon c => exact withChannel_holders h c _ fun c => hmap _ _
  case channelOn c =>
    refine withChannel_holders h c _ fun c => ?_
    try dsimp only
    split
    · exact h
    · split
      · exact h
      · split
        · exact hmap _ _
        · exact hmap _ _
        · split
          · exact promote_holders (hmap _ _) _ _
          · exact (hmap _ _).of_kept (kept_setMap none _ _ _)
  case channelOff c => exact withChannel_holders h c _ fun c => resetChannel_holders h c
  case setDescriptor x b =>
    simp only [requestEffect, setDescriptorRequest]
    split
    · exact same _ rfl rfl rfl rfl rfl rfl
    · exact h
  case readDescriptor x => simp only [requestEffect, readDescriptorRequest]; split <;> exact h
  case timeLoad v =>
    simp only [requestEffect, timeLoadRequest]
    split
    · exact same _ rfl rfl rfl rfl rfl rfl
    · exact h
  case setParameter n v =>
    simp only [requestEffect, setParameterRequest]
    split
    · exact testAll_holders (same _ rfl rfl rfl rfl rfl rfl)
    · split
      · exact same _ rfl rfl rfl rfl rfl rfl
      · exact h

/-! ### Part reset -/

/-- After part reset nobody holds a record, every engine is IDLE and no request waits. -/
theorem resetWith_holders (straps : Straps) : (State.resetWith straps).HoldersAgree where
  bursts c := by
    rw [burst_resetWith, point_resetWith]
    constructor <;> simp [Burst.reset, TimePoints.reset, SequencerState.inProgress]
  engines e := by
    rw [engine_resetWith]
    exact ⟨fun _ => rfl, nofun, nofun⟩
  heldByBurst i c := by simp [Station.reset, Burst.reset]
  heldBySettling i e := by simp [Station.reset, Engine.reset]
  granted c e := by simp [Burst.reset, Engine.reset]
  service c e h := by simp [Burst.reset] at h
  requested c := by
    rw [burst_resetWith]
    exact ⟨nofun, nofun⟩
  requests := nofun
  oneEach := List.nodup_nil
  allLive h := absurd rfl h
  free i _ := station_resetWith _ _
  retiring i h := by simp [Station.reset] at h
  channel i c h := by simp [Station.reset] at h
  counts k := by
    have h : ∀ i, ((State.resetWith straps).station i).attention.has k = false := by
      intro i
      rw [station_resetWith]
      cases k <;> rfl
    simp only [h, List.countP_false, Function.const]
    cases k <;> rfl

end Sys2Proof.Machine
end

