-- ==== Sys2Proof/Laws/Cases.lean ====
section
/-! SUPPORT. What the shared operations give in their plain cases: a request taken while no response is being sent, the
test of R36 where the next grant is not due, a truncation without a burst in grace, an END or an event that finds
nothing waiting. -/

namespace Sys2Proof.Machine

/-! ### Requests -/

/-- With no response being sent, a request takes its effect and its response begins (R184, R185). -/
theorem takeRequest_idle (effect : State → Reply × State) {s : State} (h : s.link.sending = none) :
    takeRequest effect s = (effect s).2.answered (effect s).1.status (effect s).1.body := by
  unfold takeRequest; rw [h]; rfl

/-- While a response is being sent, a request is discarded and OVERRUN set (R184 check 1, R186). -/
theorem takeRequest_busy (effect : State → Reply × State) {s : State} (h : s.link.sending ≠ none) :
    takeRequest effect s = { s with link := { s.link with receiver := .awaitCode, overrun := true } } := by
  have : s.link.sending.isSome = true := by cases e : s.link.sending <;> simp_all
  unfold takeRequest; rw [if_pos this]; rfl

/-- A command that is a request runs its request's effect. -/
theorem exec_request (i : Instr) (h : encodeRequest i ≠ none) (s : State) :
    exec i s = .next (takeRequest (requestEffect i) s) := by
  cases i <;> first | rfl | exact absurd rfl h

/-! ### Reading fields that stand in range -/

theorem readSid_of {v : BitVec 16} (h : 1 ≤ v.toNat) (h' : v.toNat ≤ 4094) :
    readSid v = some (Fin.ofNat 4096 v.toNat) := by
  have : v.toNat < 4096 := by omega
  simp only [readSid, this, dif_pos]
  rw [if_neg (by simp; omega)]
  simp [Fin.ofNat, Nat.mod_eq_of_lt this]

theorem readSid_none {v : BitVec 16} (h : v.toNat = 0 ∨ 4095 ≤ v.toNat) : readSid v = none := by
  unfold readSid
  split
  · rw [if_pos (by simp; omega)]
  · rfl

theorem readChannel_of {v : Byte} {c : Channel} (h : v.toNat = c.val) : readChannel v = some c := by
  simp [readChannel, h]

theorem readChannel_none {v : Byte} (h : 4 ≤ v.toNat) : readChannel v = none := by
  simp [readChannel, Nat.not_lt.mpr h]

theorem readIndex_of {v : Byte} {d : DescriptorId} (h : v.toNat = d.val) : readIndex v = some d := by
  simp [readIndex, h]

theorem readIndex_none {v : Byte} (h : 128 ≤ v.toNat) : readIndex v = none := by
  simp [readIndex, Nat.not_lt.mpr h]

theorem readSlot_of {v : BitVec 16} {i : Slot} (h : v.toNat = i.val) : readSlot v = some i := by
  simp [readSlot, h]

theorem readSlot_none {v : BitVec 16} (h : 1024 ≤ v.toNat) : readSlot v = none := by
  simp [readSlot, Nat.not_lt.mpr h]

/-! ### Windows and time points -/

/-- Without a burst in grace there is nothing to truncate (R37, R82). -/
theorem truncate_none (c : Channel) {s : State} (h : (s.burst c).state ≠ .grace) : truncate c s = s := by
  unfold truncate
  dsimp only
  split
  · rename_i h1 _; exact absurd h1 h
  · rfl

/-- Where a window is open, or the next grant is not due, the test of R36 only sets the opening point. -/
theorem testOpening_notDue (c : Channel) {s : State} (h : (s.point c).close ≠ none ∨
      ∀ g, nextGrant (s.map c) = some g → isAtOrBefore (openingPoint s.windowLead g) s.counter = false) :
    testOpening c s = s.setPoint c { s.point c with
      opening := if (s.point c).close = none then (nextGrant (s.map c)).map (openingPoint s.windowLead) else none } := by
  unfold testOpening openingNow setOpening waitingGrant
  cases hc : (s.point c).close with
  | some x => simp
  | none =>
    simp only [Option.isSome_none, Bool.false_eq_true, if_false, if_true]
    cases hn : nextGrant (s.map c) with
    | none => simp
    | some g =>
      have := h.resolve_left (by simp [hc]) g hn
      simp [openingDue, this]

/-- Time takes no event where it has reached no point. -/
theorem takeRaised_none {s : State} (h : raisedEvents s = []) : takeRaised maxRaised s = s := by
  unfold maxRaised takeRaised; rw [h]; rfl

/-! ### Engines -/

/-- With no request waiting, a released engine becomes IDLE (R91). -/
theorem releaseEngine_idle (e : EngineId) {s : State} (h : s.waiting = []) : releaseEngine e s = s.setEngine e .reset := by
  unfold releaseEngine; rw [h]

/-- With requests waiting, a released engine is granted to the first (R91). -/
theorem releaseEngine_granted (e : EngineId) {s : State} {q : EngineRequest} {rest : List EngineRequest}
    (h : s.waiting = q :: rest) : releaseEngine e s = grantEngine e q { s with waiting := rest } := by
  unfold releaseEngine; rw [h]

/-- A record that is not RETIRING is only unbound (R20). -/
theorem unbind_of (i : Slot) {s : State} (h : (s.station i).state ≠ .retiring) :
    unbind i s = s.setStation i { s.station i with binding := .none } := by
  unfold unbind; dsimp only; rw [if_neg h]

end Sys2Proof.Machine
end

