-- ==== Sys2Proof/Laws/Wire.lean ====
section
/-! SUPPORT. What the readers of a request's fields make of the characters the encoders send. -/

namespace Sys2Proof

/-! ### Fields of more than one character -/

theorem join16_bytes (v : BitVec 16) : join16 (v.extractLsb' 8 8) (v.extractLsb' 0 8) = v := by
  unfold join16; ext i hi; simp; grind

theorem join24_bytes (v : BitVec 24) :
    join24 (v.extractLsb' 16 8) (v.extractLsb' 8 8) (v.extractLsb' 0 8) = v := by
  unfold join24; ext i hi; simp; grind

theorem join32_bytes (v : BitVec 32) :
    join32 (v.extractLsb' 24 8) (v.extractLsb' 16 8) (v.extractLsb' 8 8) (v.extractLsb' 0 8) = v := by
  unfold join32; ext i hi; simp; grind

theorem join48_bytes (v : BitVec 48) :
    join48 (v.extractLsb' 40 8) (v.extractLsb' 32 8) (v.extractLsb' 24 8) (v.extractLsb' 16 8)
      (v.extractLsb' 8 8) (v.extractLsb' 0 8) = v := by
  unfold join48; ext i hi; simp; grind

/-! ### The coefficient set field -/

theorem readCoefficients_encode (l : List Cplx) (rest : List Byte) :
    readCoefficients l.length (encodeCoefficients l ++ rest) = some (l, rest) := by
  induction l with
  | nil => rfl
  | cons c l ih =>
    simp only [List.length_cons, encodeCoefficients, bytes16, List.append_assoc, List.cons_append, List.nil_append]
    rw [readCoefficients, ih]
    simp [join16_bytes]

theorem length_encodeCoefficients (l : List Cplx) : (encodeCoefficients l).length = 4 * l.length := by
  induction l with
  | nil => rfl
  | cons c l ih => simp [encodeCoefficients, bytes16, ih]; omega

theorem absentHeader : ∀ low : BitVec 7, (BitVec.ofBool true ++ low).getLsbD 7 = true ∧
    (BitVec.ofBool true ++ low).extractLsb' 0 7 = low := by
  decide +kernel

theorem presentHeader : ∀ (reserved : BitVec 5) (code : BitVec 2),
    (BitVec.ofBool false ++ reserved ++ code).getLsbD 7 = false ∧
    (BitVec.ofBool false ++ reserved ++ code).extractLsb' 0 2 = code ∧
    (BitVec.ofBool false ++ reserved ++ code).extractLsb' 2 5 = reserved := by
  decide +kernel

theorem presenceByte : ∀ (reserved : BitVec 6) (x y : Bool),
    (reserved ++ BitVec.ofBool x ++ BitVec.ofBool y).getLsbD 0 = y ∧
    (reserved ++ BitVec.ofBool x ++ BitVec.ofBool y).getLsbD 1 = x ∧
    (reserved ++ BitVec.ofBool x ++ BitVec.ofBool y).extractLsb' 2 6 = reserved := by
  decide +kernel

/-- A well-formed field is read back whole, and nothing after it is touched. -/
theorem readCoefficientField_encode (f : CoefficientField) (rest : List Byte) (h : f.wellFormed = true) :
    readCoefficientField (f.encode ++ rest) = some (f, rest) := by
  cases f with
  | absent low =>
    obtain ⟨h7, h0⟩ := absentHeader low
    simp only [CoefficientField.encode, List.cons_append, List.nil_append, readCoefficientField]
    rw [if_pos h7, h0]
  | present code reserved main l =>
    obtain ⟨h7, h0, h2⟩ := presentHeader reserved code
    have hl : l.length = tapsOfCode code := by simpa [CoefficientField.wellFormed] using h
    simp only [CoefficientField.encode, List.cons_append, readCoefficientField]
    rw [if_neg (by rw [h7]; decide), h0, h2, ← hl, readCoefficients_encode]

theorem length_encodeField (f : CoefficientField) : f.encode.length = f.size := by
  cases f <;> simp [CoefficientField.encode, CoefficientField.size, length_encodeCoefficients]; omega

theorem size_le (f : CoefficientField) (h : f.wellFormed = true) : f.size ≤ 130 := by
  cases f with
  | absent => simp [CoefficientField.size]
  | present code reserved main l =>
    have hl : l.length = tapsOfCode code := by simpa [CoefficientField.wellFormed] using h
    simp only [CoefficientField.size, hl, tapsOfCode]; split_ifs <;> omega

/-! ### Settings -/

/-- A setting in its place: its coefficient field is well formed, and an unknown identifier ends the list. -/
theorem readSetting_encode (x : Setting) (rest : List Byte) :
    (∀ f, x = .coefficients f → f.wellFormed = true) →
    (∀ k r, x = .unknown k r → (k = 0 ∨ 10 < k.toNat) ∧ rest = []) →
    readSetting x.identifier (x.encodeValue ++ rest) = some (x, rest) := by
  intro hf hu
  cases x with
  | coefficients f => simp [readSetting, Setting.identifier, Setting.encodeValue, readCoefficientField_encode f rest (hf f rfl)]
  | unknown k r =>
    obtain ⟨hk, rfl⟩ := hu k r rfl
    have hn : k.toNat = 0 ∨ 10 < k.toNat := by rcases hk with rfl | hk; exacts [.inl rfl, .inr hk]
    simp only [Setting.identifier, Setting.encodeValue, readSetting, List.append_nil]
    split <;> first | omega | rfl
  | _ =>
    simp [readSetting, Setting.identifier, Setting.encodeValue, readOne, readTwo, readThree, bytes16, bytes24,
      join16_bytes, join24_bytes]

theorem length_encodeSetting (x : Setting) : (x.identifier :: x.encodeValue).length = x.size := by
  cases x <;> simp [Setting.encodeValue, Setting.size, bytes16, bytes24, length_encodeField] <;> omega

theorem length_encodeSettings (l : List Setting) : (encodeSettings l).length = settingsSize l := by
  induction l with
  | nil => rfl
  | cons x l ih =>
    have := length_encodeSetting x
    simp only [encodeSettings, settingsSize, List.length_cons, List.length_append] at *
    omega

theorem settingsWellFormed_head {x : Setting} {l : List Setting} (h : settingsWellFormed (x :: l) = true) :
    (∀ f, x = .coefficients f → f.wellFormed = true) ∧
    (∀ k r, x = .unknown k r → (k = 0 ∨ 10 < k.toNat) ∧ l = []) ∧ settingsWellFormed l = true := by
  cases x <;> simp_all [settingsWellFormed]

/-- A well-formed list of settings is read back whole, with any bound on their number that suffices. -/
theorem readSettings_encode (l : List Setting) (n : Nat) (h : settingsWellFormed l = true) (hn : l.length ≤ n) :
    readSettings n (encodeSettings l) = some l := by
  induction l generalizing n with
  | nil => cases n <;> rfl
  | cons x l ih =>
    obtain ⟨hf, hu, hl⟩ := settingsWellFormed_head h
    cases n with
    | zero => simp at hn
    | succ n =>
      have hx := readSetting_encode x (encodeSettings l) hf fun k r e => by
        obtain ⟨a, rfl⟩ := hu k r e; exact ⟨a, rfl⟩
      simp only [encodeSettings, List.cons_append, readSettings]
      rw [hx]
      simp only
      rw [ih n hl (by simpa using hn)]

theorem length_le_encodeSettings (l : List Setting) : l.length ≤ (encodeSettings l).length := by
  induction l with
  | nil => simp
  | cons x l ih => simp only [encodeSettings, List.length_cons, List.length_append, List.cons_append]; omega

/-! ### ADMIT -/

/-- A body of ADMIT whose coefficient field is well formed is read back whole. -/
theorem readAdmit_encode (a : AdmitBody) (h : a.coefficients.wellFormed = true) : readAdmit a.encode = some a := by
  obtain ⟨sid, channel, missReload, reserved, vector, token, coefficients⟩ := a
  obtain ⟨p0, p1, p2⟩ := presenceByte reserved token.isSome vector.isSome
  simp only [AdmitBody.encode, bytes16, List.cons_append, List.nil_append, List.append_assoc, readAdmit]
  have hf := readCoefficientField_encode coefficients [] h
  rw [List.append_nil] at hf
  rw [p0, p1, p2]
  cases vector <;> cases token <;>
    simp [readVector, readToken, bytes48, join16_bytes, join48_bytes, hf]

theorem length_encodeAdmit (a : AdmitBody) (h : a.coefficients.wellFormed = true) : a.encode.length ≤ 142 := by
  have := size_le _ h
  obtain ⟨sid, channel, missReload, reserved, vector, token, coefficients⟩ := a
  cases vector <;> cases token <;>
    simp_all [AdmitBody.encode, bytes16, bytes48, length_encodeField] <;> omega

/-! ### Requests -/

/-- What a code and a body decode to is a request. -/
theorem encodeRequest_of_decode {code : Byte} {body : List Byte} {i : Instr} (h : decodeRequest code body = .ok i) :
    encodeRequest i ≠ none := by
  unfold decodeRequest at h
  split at h <;> (try split at h) <;> (try split at h) <;> (try injection h) <;> subst_vars <;>
    simp [encodeRequest]

end Sys2Proof
end

