-- ==== Sys2Proof/Laws/PerInstr.lean ====
section
/-! SUPPORT. The per-command family WireSize: no well-formed request is longer than a frame's 250 body characters. -/

namespace Sys2Proof.Laws.WireSize

/-- The body that a well-formed command is sent with holds at most 250 characters (R195). -/
def Statement (i : Instr) : Prop :=
  i.wellFormed = true → ∀ code body, encodeRequest i = some (code, body) → body.length ≤ 250

/-- A command that is no request has no body. -/
theorem ofNone {i : Instr} (h : encodeRequest i = none) : Statement i := by
  intro _ code body e; rw [h] at e; exact absurd e (by simp)

/-- A request whose body is known to be short. -/
theorem ofBody {i : Instr} {c : Byte} {b : List Byte} (h : encodeRequest i = some (c, b))
    (hb : i.wellFormed = true → b.length ≤ 250) : Statement i := by
  intro w code body e
  rw [h] at e
  obtain ⟨-, rfl⟩ := Prod.mk.inj (Option.some.inj e)
  exact hb w

theorem partReset (straps : Straps) : Statement (.partReset straps) := ofNone rfl
theorem powerUp (straps : Straps) : Statement (.powerUp straps) := ofNone rfl
theorem tick : Statement .tick := ofNone rfl
theorem sync : Statement .sync := ofNone rfl
theorem windowOpen (channel : Channel) : Statement (.windowOpen channel) := ofNone rfl
theorem windowClose (channel : Channel) : Statement (.windowClose channel) := ofNone rfl
theorem graceExpiry (channel : Channel) : Statement (.graceExpiry channel) := ofNone rfl
theorem mapEnd (channel : Channel) : Statement (.mapEnd channel) := ofNone rfl
theorem detect (channel : Channel) (finePhase : BitVec 6) : Statement (.detect channel finePhase) := ofNone rfl
theorem preambleDone (channel : Channel) : Statement (.preambleDone channel) := ofNone rfl
theorem symbol (channel : Channel) (sample : Cplx) (reference : Option Cplx) : Statement (.symbol channel sample reference) := ofNone rfl
theorem claim (channel : Channel) (token : Token) (valid : Bool) : Statement (.claim channel token valid) := ofNone rfl
theorem burstEnd (channel : Channel) (power : Int) (frequency : Int) : Statement (.burstEnd channel power frequency) := ofNone rfl
theorem passCompletion (engine : EngineId) : Statement (.passCompletion engine) := ofNone rfl
theorem addressCharacter (value : Byte) : Statement (.addressCharacter value) := ofNone rfl
theorem dataCharacter (value : Byte) : Statement (.dataCharacter value) := ofNone rfl
theorem faultyCharacter (fault : CharacterFault) : Statement (.faultyCharacter fault) := ofNone rfl
theorem responseEnd : Statement .responseEnd := ofNone rfl
theorem status : Statement .status := ofBody rfl fun _ => by simp [bytes16, bytes32, bytes48, DescriptorBlock.encode]
theorem lookup (sid : BitVec 16) : Statement (.lookup sid) := ofBody rfl fun _ => by simp [bytes16, bytes32, bytes48, DescriptorBlock.encode]
theorem lookupSlot (slot : BitVec 16) : Statement (.lookupSlot slot) := ofBody rfl fun _ => by simp [bytes16, bytes32, bytes48, DescriptorBlock.encode]
theorem scan (slot : BitVec 16) (kind : Byte) : Statement (.scan slot kind) := ofBody rfl fun _ => by simp [bytes16, bytes32, bytes48, DescriptorBlock.encode]
theorem writeStation (sid : BitVec 16) (settings : List Setting) : Statement (.writeStation sid settings) := ofBody rfl fun w => by
  have h : settingsSize settings ≤ 248 := by
    simp only [Instr.wellFormed, settingsSpelled, Bool.and_eq_true, decide_eq_true_eq] at w; exact w.2
  simp only [List.length_append, length_encodeSettings, bytes16, List.length_cons, List.length_nil]
  omega
theorem admitStation (body : AdmitBody) : Statement (.admitStation body) := ofBody rfl fun w => by
  have h := length_encodeAdmit body w
  omega
theorem retire (sid : BitVec 16) : Statement (.retire sid) := ofBody rfl fun _ => by simp [bytes16, bytes32, bytes48, DescriptorBlock.encode]
theorem ackAttention (sid : BitVec 16) (kinds : List Byte) : Statement (.ackAttention sid kinds) := ofBody rfl fun w => by
  have h : kinds.length ≤ 3 := by simpa [Instr.wellFormed, kindsSpelled] using w
  simp only [List.length_append, bytes16, List.length_cons, List.length_nil]
  omega
theorem armProgramme (sid : BitVec 16) (vector : Byte) : Statement (.armProgramme sid vector) := ofBody rfl fun _ => by simp [bytes16, bytes32, bytes48, DescriptorBlock.encode]
theorem disarmProgramme (sid : BitVec 16) : Statement (.disarmProgramme sid) := ofBody rfl fun _ => by simp [bytes16, bytes32, bytes48, DescriptorBlock.encode]
theorem takeCorrection : Statement .takeCorrection := ofBody rfl fun _ => by simp [bytes16, bytes32, bytes48, DescriptorBlock.encode]
theorem probes (position : Byte) : Statement (.probes position) := ofBody rfl fun _ => by simp [bytes16, bytes32, bytes48, DescriptorBlock.encode]
theorem dismiss (token : Token) : Statement (.dismiss token) := ofBody rfl fun _ => by simp [bytes16, bytes32, bytes48, DescriptorBlock.encode]
theorem mapOpen (channel : Byte) (start : Tick) (stop : Tick) : Statement (.mapOpen channel start stop) := ofBody rfl fun _ => by simp [bytes16, bytes32, bytes48, DescriptorBlock.encode]
theorem mapGrant (channel : Byte) (start : Tick) (length : BitVec 16) (sid : BitVec 16) (kind : Byte) : Statement (.mapGrant channel start length sid kind) := ofBody rfl fun _ => by simp [bytes16, bytes32, bytes48, DescriptorBlock.encode]
theorem mapClose (channel : Byte) : Statement (.mapClose channel) := ofBody rfl fun _ => by simp [bytes16, bytes32, bytes48, DescriptorBlock.encode]
theorem mapAbandon (channel : Byte) : Statement (.mapAbandon channel) := ofBody rfl fun _ => by simp [bytes16, bytes32, bytes48, DescriptorBlock.encode]
theorem channelOn (channel : Byte) : Statement (.channelOn channel) := ofBody rfl fun _ => by simp [bytes16, bytes32, bytes48, DescriptorBlock.encode]
theorem channelOff (channel : Byte) : Statement (.channelOff channel) := ofBody rfl fun _ => by simp [bytes16, bytes32, bytes48, DescriptorBlock.encode]
theorem setDescriptor (index : Byte) (block : DescriptorBlock) : Statement (.setDescriptor index block) := ofBody rfl fun _ => by simp [bytes16, bytes32, bytes48, DescriptorBlock.encode]
theorem readDescriptor (index : Byte) : Statement (.readDescriptor index) := ofBody rfl fun _ => by simp [bytes16, bytes32, bytes48, DescriptorBlock.encode]
theorem timeLoad (value : Tick) : Statement (.timeLoad value) := ofBody rfl fun _ => by simp [bytes16, bytes32, bytes48, DescriptorBlock.encode]
theorem timeRead : Statement .timeRead := ofBody rfl fun _ => by simp [bytes16, bytes32, bytes48, DescriptorBlock.encode]
theorem setParameter (setting : Byte) (value : Byte) : Statement (.setParameter setting value) := ofBody rfl fun _ => by simp [bytes16, bytes32, bytes48, DescriptorBlock.encode]

end Sys2Proof.Laws.WireSize
end

