-- ==== Sys2Proof/Laws/Schedule.lean ====
section
/-! SUPPORT. What the operations on windows, maps and time points do to the schedule of a channel: each keeps maps,
channel state and time points in agreement. -/

namespace Sys2Proof.Machine

/-! ### Operations that touch no schedule -/

/-- The schedule of every channel is as it was, but for the grace expiry points. -/
structure SameSchedule (s t : State) : Prop where
  lead : t.windowLead = s.windowLead
  map : ∀ c, t.map c = s.map c
  opening : ∀ c, (t.point c).opening = (s.point c).opening
  close : ∀ c, (t.point c).close = (s.point c).close
  mapEnd : ∀ c, (t.point c).mapEnd = (s.point c).mapEnd

theorem SameSchedule.refl (s : State) : SameSchedule s s := by constructor <;> intros <;> rfl

theorem SameSchedule.trans {s t u : State} (a : SameSchedule s t) (b : SameSchedule t u) : SameSchedule s u :=
  ⟨b.lead.trans a.lead, fun c => (b.map c).trans (a.map c), fun c => (b.opening c).trans (a.opening c),
    fun c => (b.close c).trans (a.close c), fun c => (b.mapEnd c).trans (a.mapEnd c)⟩

theorem SameSchedule.of_frame {s t : State} (h : EngineFrame s t) : SameSchedule s t where
  lead := h.windowLead
  map c := by simp only [State.map, h.maps]
  opening c := by simp only [State.point, h.points]
  close c := by simp only [State.point, h.points]
  mapEnd c := by simp only [State.point, h.points]

theorem endGrace_same (c : Channel) (s : State) : SameSchedule s (endGrace c s) := by
  constructor <;> intros <;> first | rfl | (simp only [endGrace, point_setPoint]; split <;> simp_all)

theorem emit_same (s : State) (c : Channel) (x : SymbolItem) : SameSchedule s (s.emit c x) := by
  constructor <;> intros <;> rfl

theorem emitTrailer_same (c : Channel) (b : Burst) (o : BurstOutcome) (s : State) :
    SameSchedule s (emitTrailer c b o s) := by
  unfold emitTrailer
  split
  · exact emit_same _ _ _
  · exact .refl s

theorem setBurst_same (s : State) (c : Channel) (b : Burst) : SameSchedule s (s.setBurst c b) := by
  constructor <;> intros <;> rfl

theorem truncate_same (c : Channel) (s : State) : SameSchedule s (truncate c s) := by
  unfold truncate
  dsimp only
  split
  · refine SameSchedule.trans ?_ (setBurst_same _ _ _)
    refine SameSchedule.trans ?_ (emitTrailer_same _ _ _ _)
    split
    · exact (endGrace_same _ _).trans
        (.of_frame ((missTruncated_frame _ _ _).toEngineFrame.trans (dropUnicast_frame _ _ _ _)))
    · exact endGrace_same _ _
  · exact .refl s

theorem abandon_same (c : Channel) (s : State) : SameSchedule s (abandon c s) := by
  unfold abandon
  dsimp only
  refine SameSchedule.trans ?_ (setBurst_same _ _ _)
  split
  · exact (SameSchedule.of_frame (dropUnicast_frame _ _ _ _)).trans (emitTrailer_same _ _ _ _)
  · exact .refl s

theorem decideMode_same (c : Channel) (w : Window) (s : State) : SameSchedule s (decideMode c w s) := by
  unfold decideMode
  dsimp only
  split
  · exact (setBurst_same _ _ _).trans (emit_same _ _ _)
  · exact (SameSchedule.of_frame ((withdrawRequest_frame c s).trans (setBurst_frame _ _ _))).trans (emit_same _ _ _)

theorem preambleDone_same (c : Channel) (s : State) : SameSchedule s (preambleDone c s) := by
  unfold preambleDone
  split
  · split
    · exact decideMode_same _ _ _
    · exact .refl s
  · exact .refl s

theorem symbol_same (c : Channel) (x : Cplx) (r : Option Cplx) (s : State) : SameSchedule s (symbol c x r s) := by
  unfold symbol
  split
  · exact .refl s
  · split
    · exact (SameSchedule.of_frame ((setEngine_frame _ _ _).trans (setBurst_frame _ _ _))).trans (emit_same _ _ _)
    · exact emit_same _ _ _
    · exact .refl s

theorem takeClaim_same (x : ProbeClaim) (s : State) : SameSchedule s (takeClaim x s) := by
  unfold takeClaim
  repeat' first | split | (constructor <;> intros <;> rfl)

theorem burstEnd_same (c : Channel) (p f : Int) (s : State) : SameSchedule s (burstEnd c p f s) := by
  unfold burstEnd
  split
  · unfold endContention
    dsimp only
    refine SameSchedule.trans ?_ (setBurst_same _ _ _)
    split
    · exact (endGrace_same _ _).trans (takeClaim_same _ _)
    · exact endGrace_same _ _
  · split
    · have hu (w : Window) (i : Slot) (t : State) : SameSchedule t (endUnicast c w i p f t) := by
        unfold endUnicast
        dsimp only
        refine SameSchedule.trans ?_ (setBurst_same _ _ _)
        refine SameSchedule.trans ?_ (emitTrailer_same _ _ _ _)
        exact (endGrace_same _ _).trans (.of_frame (endRecord_frame _ _ _ _ _ _))
      refine SameSchedule.trans ?_ (hu _ _ _)
      split
      · exact decideMode_same _ _ _
      · exact .refl s
    · exact .refl s

theorem sequencerClose_same (c : Channel) (close : Tick) (s : State) : SameSchedule s (sequencerClose c close s) := by
  have hg (t : Tick) : SameSchedule s ((s.setBurst c { s.burst c with state := .grace }).setPoint c
      { s.point c with grace := some t }) := by
    constructor <;> intros <;> first | rfl | (simp only [point_setPoint]; split <;> simp_all)
  unfold sequencerClose
  dsimp only
  split
  · exact (SameSchedule.of_frame (missUnused_frame _ _ _).toEngineFrame).trans (setBurst_same _ _ _)
  · exact hg _
  · exact hg _
  · exact setBurst_same _ _ _
  · exact .refl s

/-- The agreement of the schedule rests on nothing else. -/
theorem State.ScheduleAgrees.of_same {s t : State} (h : s.ScheduleAgrees) (e : SameSchedule s t) : t.ScheduleAgrees := by
  intro c
  have hc := h c
  rw [e.lead, e.map]
  refine { hc with mapEnd := by rw [e.mapEnd]; exact hc.mapEnd, opening := fun t ht => ?_ }
  rw [e.opening] at ht
  rw [e.close]
  exact hc.opening t ht

/-! ### Windows and maps -/

/-- A channel's schedule apart from a waiting opening point agrees. -/
def ChannelReady (s : State) (c : Channel) : Prop :=
  ChannelAgrees s.windowLead (s.map c) { s.point c with opening := none }

/-- Every other channel agrees, and this one up to its opening point. -/
structure ReadyAt (s : State) (c : Channel) : Prop where
  here : ChannelReady s c
  others : ∀ d, d ≠ c → ChannelAgrees s.windowLead (s.map d) (s.point d)

theorem ChannelAgrees.ready {s : State} {c : Channel} (h : ChannelAgrees s.windowLead (s.map c) (s.point c)) :
    ChannelReady s c := { h with opening := fun _ e => by cases e }

theorem readyAt_of_agrees {s : State} (h : s.ScheduleAgrees) (c : Channel) : ReadyAt s c :=
  ⟨(h c).ready, fun d _ => h d⟩

theorem nextPosition_fits {m : ChannelMap} {k : Nat} (h : nextPosition m = some k) :
    ∃ a, m.active = some a ∧ k < a.grants.length := by
  unfold nextPosition at h
  split at h
  · next a j ha _ =>
    split at h
    · next hlt => injection h with h; exact ⟨a, ha, by omega⟩
    · cases h
  · cases h

theorem openWindow_agrees {s : State} {c : Channel} (h : ReadyAt s c) (g : Grant) :
    (openWindow c g s).ScheduleAgrees := by
  unfold openWindow
  dsimp only
  refine State.ScheduleAgrees.of_same ?_ ((truncate_same c _).trans (setBurst_same _ _ _))
  intro d
  by_cases hd : d = c
  · subst hd
    have h0 := h.here
    simp only [setPoint_map, setPoint_windowLead, setMap_windowLead, map_setMap_same, point_setPoint_same]
    exact { h0 with
      position := fun k hk => nextPosition_fits (m := s.map d) hk
      opening := fun t e => by cases e }
  · simp only [setPoint_map, setPoint_windowLead, setMap_windowLead, point_setPoint_ne _ _ _ _ (Ne.symm hd),
      setMap_point, map_setMap_ne _ _ _ _ (Ne.symm hd)]
    exact h.others d hd

theorem waitingGrant_some {s : State} {c : Channel} {g : Grant} (h : waitingGrant s c = some g) :
    (s.point c).close = none ∧ nextGrant (s.map c) = some g := by
  unfold waitingGrant at h
  split at h
  · cases h
  · next hc => exact ⟨by simpa using hc, h⟩

theorem setOpening_agrees {s : State} {c : Channel} (h : ReadyAt s c) : (setOpening c s).ScheduleAgrees := by
  intro d
  by_cases hd : d = c
  · subst hd
    simp only [setOpening, setPoint_map, setPoint_windowLead, point_setPoint_same]
    refine { h.here with opening := fun t e => ?_ }
    dsimp only at e ⊢
    split at e
    · next g hg =>
      split at e
      · cases e
      · injection e with e
        exact ⟨(waitingGrant_some hg).1, g, (waitingGrant_some hg).2, e.symm⟩
    · cases e
  · simp only [setOpening, setPoint_map, setPoint_windowLead, point_setPoint_ne _ _ _ _ (Ne.symm hd)]
    exact h.others d hd

theorem testOpening_agrees {s : State} {c : Channel} (h : ReadyAt s c) : (testOpening c s).ScheduleAgrees := by
  unfold testOpening
  split
  · exact openWindow_agrees h _
  · exact setOpening_agrees h

/-- A channel whose schedule is put in place anew. -/
theorem readyAt_set {s : State} (h : s.ScheduleAgrees) (c : Channel) {m : ChannelMap} {p : TimePoints}
    (hc : ChannelAgrees s.windowLead m { p with opening := none }) : ReadyAt ((s.setMap c m).setPoint c p) c where
  here := by
    unfold ChannelReady
    simpa only [setPoint_map, setPoint_windowLead, setMap_windowLead, map_setMap_same, point_setPoint_same] using hc
  others d hd := by
    simp only [setPoint_map, setPoint_windowLead, setMap_windowLead, point_setPoint_ne _ _ _ _ (Ne.symm hd),
      setMap_point, map_setMap_ne _ _ _ _ (Ne.symm hd)]
    exact h d

theorem agrees_set {s : State} (h : s.ScheduleAgrees) (c : Channel) {m : ChannelMap} {p : TimePoints}
    (hc : ChannelAgrees s.windowLead m p) : ((s.setMap c m).setPoint c p).ScheduleAgrees := by
  intro d
  by_cases hd : d = c
  · subst hd
    simpa only [setPoint_map, setPoint_windowLead, setMap_windowLead, map_setMap_same, point_setPoint_same] using hc
  · simp only [setPoint_map, setPoint_windowLead, setMap_windowLead, point_setPoint_ne _ _ _ _ (Ne.symm hd),
      setMap_point, map_setMap_ne _ _ _ _ (Ne.symm hd)]
    exact h d

theorem agrees_setMap {s : State} (h : s.ScheduleAgrees) (c : Channel) {m : ChannelMap}
    (hc : ChannelAgrees s.windowLead m (s.point c)) : (s.setMap c m).ScheduleAgrees := by
  intro d
  by_cases hd : d = c
  · subst hd
    simpa only [setMap_windowLead, map_setMap_same, setMap_point] using hc
  · simp only [setMap_windowLead, setMap_point, map_setMap_ne _ _ _ _ (Ne.symm hd)]
    exact h d

theorem promote_agrees {s : State} (h : s.ScheduleAgrees) (c : Channel) {m : BurstMap} (hm : m.Valid) :
    (promote c m s).ScheduleAgrees := by
  unfold promote
  refine testOpening_agrees (readyAt_set h c ?_)
  refine ⟨by simp, by simp, ?_, ?_, by simp [PendingMap.map?], by simp⟩
  · intro k hk
    dsimp only at hk
    split at hk
    · cases hk
    · next hne =>
      injection hk with hk
      subst hk
      refine ⟨m, rfl, List.length_pos_of_ne_nil ?_⟩
      intro e
      simp [e] at hne
  · intro a ha
    injection ha with ha
    subst ha
    exact hm

theorem starve_agrees {s : State} (h : s.ScheduleAgrees) (c : Channel) : (starve c s).ScheduleAgrees := by
  unfold starve
  exact agrees_set h c ⟨by simp, by simp, by simp, by simp, (h c).pendingMap, by simp⟩

theorem closeWindow_agrees {s : State} (h : s.ScheduleAgrees) (c : Channel) (close : Tick) :
    (closeWindow c close s).ScheduleAgrees := by
  unfold closeWindow
  refine testOpening_agrees (readyAt_of_agrees (State.ScheduleAgrees.of_same ?_ (sequencerClose_same c close _)) c)
  intro d
  by_cases hd : d = c
  · subst hd
    simp only [setPoint_map, setPoint_windowLead, point_setPoint_same]
    exact { h d with opening := fun t e => ⟨rfl, ((h d).opening t e).2⟩ }
  · simp only [setPoint_map, setPoint_windowLead, point_setPoint_ne _ _ _ _ (Ne.symm hd)]
    exact h d

theorem ageProbes_same (c : Channel) (s : State) : SameSchedule s (ageProbes c s) := by
  constructor <;> intros <;> rfl

theorem reachMapEnd_agrees {s : State} (h : s.ScheduleAgrees) (c : Channel) : (reachMapEnd c s).ScheduleAgrees := by
  unfold reachMapEnd
  split
  · next m hm =>
    exact (promote_agrees h c ((h c).pendingMap m (by rw [hm]; rfl))).of_same (ageProbes_same _ _)
  · exact starve_agrees h c
  · exact starve_agrees h c

theorem take_agrees {s : State} (h : s.ScheduleAgrees) (x : TimeEvent) : (x.take s).ScheduleAgrees := by
  cases x <;> unfold TimeEvent.take
  · dsimp only
    unfold openReached
    split
    · exact openWindow_agrees (readyAt_of_agrees h _) _
    · exact h
  · exact closeWindow_agrees h _ _
  · exact h.of_same ((endGrace_same _ _).trans (truncate_same _ _))
  · exact reachMapEnd_agrees h _

theorem takeIfRaised_agrees {s : State} (h : s.ScheduleAgrees) (x : TimeEvent) :
    (takeIfRaised x s).ScheduleAgrees := by
  unfold takeIfRaised
  split
  · exact take_agrees h x
  · exact h

theorem takeRaised_agrees {s : State} (h : s.ScheduleAgrees) (n : Nat) : (takeRaised n s).ScheduleAgrees := by
  induction n generalizing s with
  | zero => exact h
  | succ n ih =>
    unfold takeRaised
    have h1 := h.of_same (.of_frame (pick_frame s (raisedEvents s)))
    split
    · exact h
    · next x t heq => rw [heq] at h1; exact ih (take_agrees h1 x)

theorem openNow_agrees {s : State} (h : s.ScheduleAgrees) (n : Nat) : (openNow n s).ScheduleAgrees := by
  induction n generalizing s with
  | zero => exact h
  | succ n ih =>
    unfold openNow
    have h1 := h.of_same (.of_frame (pick_frame s (openingChannels s)))
    split
    · exact h
    · next c t heq => rw [heq] at h1; exact ih (testOpening_agrees (readyAt_of_agrees h1 c))

/-- Setting the opening point of a channel puts its schedule in agreement and leaves the other channels as they
were. -/
theorem setOpening_channel (c d : Channel) (s : State) (h : ChannelReady s d) :
    ChannelReady (setOpening c s) d ∧
      (d = c ∨ ChannelAgrees s.windowLead (s.map d) (s.point d) →
        ChannelAgrees (setOpening c s).windowLead ((setOpening c s).map d) ((setOpening c s).point d)) := by
  by_cases hd : d = c
  · subst hd
    have : ChannelAgrees (setOpening d s).windowLead ((setOpening d s).map d) ((setOpening d s).point d) := by
      simp only [setOpening, setPoint_map, setPoint_windowLead, point_setPoint_same]
      refine { h with opening := fun t e => ?_ }
      dsimp only at e ⊢
      split at e
      · next g hg =>
        split at e
        · cases e
        · injection e with e
          exact ⟨(waitingGrant_some hg).1, g, (waitingGrant_some hg).2, e.symm⟩
      · cases e
    exact ⟨this.ready, fun _ => this⟩
  · unfold ChannelReady at h ⊢
    simp only [setOpening, setPoint_map, setPoint_windowLead, point_setPoint_ne _ _ _ _ (Ne.symm hd)]
    exact ⟨h, fun hx => hx.resolve_left hd⟩

theorem channel_cases (d : Channel) : d = 3 ∨ d = 2 ∨ d = 1 ∨ d = 0 := by
  revert d
  decide

theorem testAll_agrees {s : State} (h : ∀ c, ChannelReady s c) : (testAll s).ScheduleAgrees := by
  unfold testAll
  refine openNow_agrees ?_ _
  intro d
  have h0 := setOpening_channel 0 d s (h d)
  have h1 := setOpening_channel 1 d _ h0.1
  have h2 := setOpening_channel 2 d _ h1.1
  have h3 := setOpening_channel 3 d _ h2.1
  refine h3.2 ?_
  rcases channel_cases d with rfl | rfl | rfl | rfl
  · exact Or.inl rfl
  · exact Or.inr (h2.2 (Or.inl rfl))
  · exact Or.inr (h2.2 (Or.inr (h1.2 (Or.inl rfl))))
  · exact Or.inr (h2.2 (Or.inr (h1.2 (Or.inr (h0.2 (Or.inl rfl))))))

theorem resetChannel_agrees {s : State} (h : s.ScheduleAgrees) (c : Channel) : (resetChannel c s).ScheduleAgrees :=
  agrees_set (h.of_same (abandon_same c s)) c
    ⟨by simp [ChannelMap.reset], by simp [ChannelMap.reset, TimePoints.reset], by simp [ChannelMap.reset],
      by simp [ChannelMap.reset], by simp [ChannelMap.reset, PendingMap.map?], by simp [TimePoints.reset]⟩

theorem resetWith_agrees (straps : Straps) : (State.resetWith straps).ScheduleAgrees := by
  intro c
  rw [map_resetWith, point_resetWith]
  exact ⟨by simp [ChannelMap.reset], by simp [ChannelMap.reset, TimePoints.reset], by simp [ChannelMap.reset],
      by simp [ChannelMap.reset], by simp [ChannelMap.reset, PendingMap.map?], by simp [TimePoints.reset]⟩

/-! ### Requests -/

theorem BurstMap.offset_le (m : BurstMap) (g : Grant) : m.offset g ≤ m.endOffset g := Nat.le_add_right _ _

/-- A grant that passes checks 5 and 6 of R48 may follow the grants of a valid map (R45). -/
theorem append_valid {m : BurstMap} {g : Grant} (h : m.Valid) (hg : g.Valid) (hn : m.grants.length < 48)
    (he : m.encloses g = true) (hf : m.follows g = true) :
    BurstMap.Valid { m with grants := m.grants ++ [g] } := by
  refine ⟨h.span, by simp; omega, ?_, ?_, ?_⟩
  · intro x hx
    rcases List.mem_append.mp hx with hx | hx
    · exact h.grants x hx
    · simp only [List.mem_singleton] at hx; subst hx; exact hg
  · intro x hx
    rcases List.mem_append.mp hx with hx | hx
    · exact h.inside x hx
    · simp only [List.mem_singleton] at hx; subst hx; exact of_decide_eq_true he
  · refine List.pairwise_append.mpr ⟨h.ordered, by simp, ?_⟩
    intro a ha b hb
    simp only [List.mem_singleton] at hb
    subst hb
    show m.endOffset a ≤ m.offset b
    unfold BurstMap.follows at hf
    split at hf
    · next hl => rw [List.getLast?_eq_none_iff] at hl; rw [hl] at ha; cases ha
    · next last hl =>
      simp only [decide_eq_true_eq] at hf
      obtain ⟨ys, hys⟩ := List.getLast?_eq_some_iff.mp hl
      have hp := h.ordered
      rw [hys] at ha hp
      rcases List.mem_append.mp ha with ha | ha
      · have h1 := (List.pairwise_append.mp hp).2.2 a ha last (by simp)
        have h2 := m.offset_le last
        omega
      · simp only [List.mem_singleton] at ha; subst ha; exact hf

theorem readGrant_valid {a : Tick} {l v : BitVec 16} {k : Byte} {g : Grant} (h : readGrant a l v k = some g) :
    g.Valid := by
  unfold readGrant at h
  split at h
  · cases h
  · next kind _ =>
    split at h
    · next hv =>
      split at h
      · next hc =>
        injection h with h
        subst h
        simp only [Bool.and_eq_true, decide_eq_true_eq] at hc
        obtain ⟨⟨h1, h2⟩, h3⟩ := hc
        refine ⟨h1, ?_, ?_⟩
        · intro hk
          have : v.toNat = 0 := (by simpa using h3 : kind = .initial ↔ v.toNat = 0).mp hk
          exact Fin.ext this
        · intro hk
          have : ¬ v.toNat = 0 := fun e => hk ((by simpa using h3 : kind = .initial ↔ v.toNat = 0).mpr e)
          constructor <;> intro e <;> have := congrArg Fin.val e <;> simp at this <;> omega
      · cases h
    · cases h

theorem setPending_agrees {s : State} (h : s.ScheduleAgrees) (c : Channel) {p : PendingMap}
    (hp : ∀ a, p.map? = some a → a.Valid) : (setPending c p s).ScheduleAgrees :=
  agrees_setMap h c { h c with pendingMap := hp }

theorem withChannel_agrees {s : State} (h : s.ScheduleAgrees) (v : Byte) (act : Channel → State → Reply × State)
    (ha : ∀ c, (act c s).2.ScheduleAgrees) : (withChannel v act s).2.ScheduleAgrees := by
  unfold withChannel
  split
  · exact ha _
  · exact h

theorem mapOpen_agrees {s : State} (h : s.ScheduleAgrees) (v : Byte) (a b : Tick) :
    (mapOpenRequest v a b s).2.ScheduleAgrees := by
  refine withChannel_agrees h v _ fun c => ?_
  try dsimp only
  split
  · next hs =>
    simp only [Bool.and_eq_true, decide_eq_true_eq] at hs
    refine setPending_agrees h c ?_
    intro m hm
    injection hm with hm
    subst hm
    exact ⟨hs, by simp, by simp, by simp, by simp⟩
  · exact h

theorem mapGrant_agrees {s : State} (h : s.ScheduleAgrees) (v : Byte) (a : Tick) (l x : BitVec 16) (k : Byte) :
    (mapGrantRequest v a l x k s).2.ScheduleAgrees := by
  refine withChannel_agrees h v _ fun c => ?_
  try dsimp only
  split
  · exact h
  · next g hg =>
    unfold appendGrant
    split
    · exact h
    · exact h
    · next m hm =>
      split
      · next hn =>
        split
        · next he =>
          split
          · next hf =>
            refine setPending_agrees h c ?_
            intro y hy
            injection hy with hy
            subst hy
            exact append_valid ((h c).pendingMap m (by rw [hm]; rfl)) (readGrant_valid hg) hn he hf
          · exact h
        · exact h
      · exact h

theorem mapClose_agrees {s : State} (h : s.ScheduleAgrees) (v : Byte) : (mapCloseRequest v s).2.ScheduleAgrees := by
  refine withChannel_agrees h v _ fun c => ?_
  try dsimp only
  split
  · exact h
  · exact h
  · next m hm =>
    have hv := (h c).pendingMap m (by rw [hm]; rfl)
    split
    · exact h
    · split
      · split
        · exact promote_agrees h c hv
        · refine setPending_agrees h c ?_
          intro y hy
          injection hy with hy
          subst hy
          exact hv
      · exact h

theorem channelOn_agrees {s : State} (h : s.ScheduleAgrees) (v : Byte) : (channelOnRequest v s).2.ScheduleAgrees := by
  refine withChannel_agrees h v _ fun c => ?_
  try dsimp only
  split
  · exact h
  · split
    · exact h
    · next hoff =>
      have hc := h c
      have hs : (s.map c).state = .off := by simpa using hoff
      have hn : (s.map c).active = none := by
        have := hc.running
        rw [hs] at this
        simpa using this
      have h1 : (s.setMap c { s.map c with state := .starved }).ScheduleAgrees :=
        agrees_setMap h c { hc with running := by simp [hn] }
      split
      · exact h1
      · exact h1
      · next m hm =>
        have hv := hc.pendingMap m (by rw [hm]; rfl)
        split
        · exact promote_agrees h1 c hv
        · exact setPending_agrees h1 c (by intro a e; cases e)

theorem setParameter_agrees {s : State} (h : s.ScheduleAgrees) (n v : Byte) :
    (setParameterRequest n v s).2.ScheduleAgrees := by
  unfold setParameterRequest
  split
  · refine testAll_agrees (s := { s with windowLead := v.toNat }) ?_
    intro c
    exact { h c with opening := fun t e => by cases e }
  · split
    · exact h
    · exact h

/-- Every request keeps the schedule of every channel in agreement. -/
theorem requestEffect_agrees {s : State} (h : s.ScheduleAgrees) (i : Instr) : (requestEffect i s).2.ScheduleAgrees := by
  have hsid (v : BitVec 16) (act : Slot → State → Reply × State) (ha : ∀ i, SameSchedule s (act i s).2) :
      (withSid v act s).2.ScheduleAgrees := by
    unfold withSid
    split
    · exact h
    · split
      · exact h
      · exact h.of_same (ha _)
  have hframe {t : State} (e : EngineFrame s t) : t.ScheduleAgrees := h.of_same (.of_frame e)
  cases i <;> try exact h
  case lookup v => exact hsid v _ fun _ => .refl s
  case lookupSlot v => simp only [requestEffect, lookupSlotRequest]; split <;> exact h
  case scan v k =>
    simp only [requestEffect, scanRequest]
    split
    · split <;> exact h
    · exact h
  case writeStation v l =>
    simp only [requestEffect, writeStationRequest]
    split
    · split
      · refine hsid v _ fun i => ?_
        unfold writeStationAt
        repeat' first | split | exact .refl s | exact .of_frame (setStation_frame _ _ _).toEngineFrame
      · exact h
    · exact h
  case admitStation b =>
    simp only [requestEffect, admitRequest]
    split
    · split
      · exact h
      · next a _ =>
        have h1 (i : Slot) : SameSchedule s (writeAdmission i a s) := by constructor <;> intros <;> rfl
        unfold admitChecked
        split
        · exact h
        · split
          · exact h
          · next i _ =>
            split
            · exact h.of_same (h1 i)
            · split
              · exact h
              · refine h.of_same ((h1 i).trans (SameSchedule.trans ?_
                  (.of_frame (requestCorrection_frame _ _).toEngineFrame)))
                constructor <;> intros <;> rfl
    · exact h
  case retire v =>
    simp only [requestEffect, retireRequest]
    split
    · exact h
    · next v _ =>
      split
      · exact h
      · next i _ =>
        have h0 : SameSchedule s (s.setSidEntry v none) := by constructor <;> intros <;> rfl
        have h1 := h0.trans (.of_frame (retireIdentity_stations v i s).toEngineFrame)
        show (retireRecord i (retireIdentity v i s)).ScheduleAgrees
        refine h.of_same (h1.trans (.of_frame ?_))
        unfold retireRecord
        split
        · exact (becomeFree_frame _ _).toEngineFrame
        · exact (becomeFree_frame _ _).toEngineFrame.trans (releaseEngine_frame _ _)
        · exact (setStation_frame _ _ _).toEngineFrame
  case ackAttention v ks =>
    simp only [requestEffect, ackAttentionRequest]
    split
    · refine hsid v _ fun i => ?_
      unfold ackAttentionAt
      split
      · exact .refl s
      · exact .of_frame (dropKinds_frame _ _ _).toEngineFrame
    · exact h
  case armProgramme v x =>
    refine hsid v _ fun i => ?_
    try dsimp only
    split
    · exact .refl s
    · exact .of_frame (setStation_frame _ _ _).toEngineFrame
  case disarmProgramme v => exact hsid v _ fun i => .of_frame (setStation_frame _ _ _).toEngineFrame
  case takeCorrection =>
    simp only [requestEffect, takeCorrectionRequest]
    split
    · exact h
    · exact hframe (takeEntry_frame _ _ _).toEngineFrame
  case probes p => simp only [requestEffect, probesRequest]; split <;> exact h
  case dismiss t =>
    simp only [requestEffect, dismissRequest]
    split
    · exact h.of_same (by constructor <;> intros <;> rfl)
    · exact h
  case mapOpen c a b => exact mapOpen_agrees h c a b
  case mapGrant c a l v k => exact mapGrant_agrees h c a l v k
  case mapClose c => exact mapClose_agrees h c
  case mapAbandon c =>
    exact withChannel_agrees h c _ fun c => setPending_agrees h c (by intro a e; cases e)
  case channelOn c => exact channelOn_agrees h c
  case channelOff c => exact withChannel_agrees h c _ fun c => resetChannel_agrees h c
  case setDescriptor x b =>
    simp only [requestEffect, setDescriptorRequest]
    split
    · exact h.of_same (by constructor <;> intros <;> rfl)
    · exact h
  case readDescriptor x => simp only [requestEffect, readDescriptorRequest]; split <;> exact h
  case timeLoad v =>
    simp only [requestEffect, timeLoadRequest]
    split
    · exact h.of_same (by constructor <;> intros <;> rfl)
    · exact h
  case setParameter n v => exact setParameter_agrees h n v

end Sys2Proof.Machine
end

