-- ==== Sys2Proof/Laws/Steps.lean ====
section
/-! SUPPORT. What a command can do, said once: a property of states that each shared operation keeps is kept by every
command and by every step. -/

namespace Sys2Proof.Machine

/-- A property of states that every operation behind the commands keeps. -/
structure KeptByOperations (Inv : State → Prop) : Prop where
  link : ∀ s x, Inv s → Inv { s with link := x }
  request : ∀ i s, Inv s → Inv (requestEffect i s).2
  partReset : ∀ x s, Inv (resetPart x s)
  tick : ∀ s, Inv s → Inv (tick s)
  sync : ∀ s, Inv s → Inv (sync s)
  event : ∀ x s, Inv s → Inv (takeIfRaised x s)
  detect : ∀ c p s, Inv s → Inv (detect c p s)
  preambleDone : ∀ c s, Inv s → Inv (preambleDone c s)
  symbol : ∀ c x r s, Inv s → Inv (symbol c x r s)
  claim : ∀ c t v s, Inv s → Inv (claim c t v s)
  burstEnd : ∀ c p f s, Inv s → Inv (burstEnd c p f s)
  pass : ∀ e s, Inv s → (s.engine e).state = .settling → Inv (completePass e s)

namespace KeptByOperations
variable {Inv : State → Prop}

/-- A request that is taken or discarded. -/
theorem takeRequest (k : KeptByOperations Inv) {effect : State → Reply × State}
    (hf : ∀ s, Inv s → Inv (effect s).2) {s : State} (h : Inv s) : Inv (takeRequest effect s) := by
  unfold Machine.takeRequest
  split
  · exact k.link _ _ (k.link _ _ h)
  · exact k.link _ _ (k.link _ _ (hf s h))

/-- The effect of the frame received. -/
theorem frame (k : KeptByOperations Inv) (p : PartialRequest) (v : Byte) {s : State} (h : Inv s) :
    Inv (frameEffect p v s).2 := by
  unfold frameEffect
  split
  · exact h
  · split
    · exact h
    · exact h
    · split
      · exact k.request _ _ h
      · exact h

/-- A data character. -/
theorem dataCharacter (k : KeptByOperations Inv) (v : Byte) {s : State} (h : Inv s) : Inv (dataCharacter v s) := by
  unfold Machine.dataCharacter
  split
  · exact h
  · exact h
  · exact k.link _ _ h
  · exact k.link _ _ h
  · exact k.link _ _ h
  · exact k.takeRequest (fun _ => k.frame _ _) (k.link _ _ h)

/-- A command. -/
theorem exec (k : KeptByOperations Inv) (i : Instr) {s t : State} (h : Inv s) (he : exec i s = .next t) : Inv t := by
  by_cases hr : encodeRequest i ≠ none
  · rw [exec_request i hr] at he
    cases he
    exact k.takeRequest (k.request i) h
  · cases i <;> first | (exfalso; apply hr; intro x; cases x; done) | skip
    all_goals cases he
    · exact k.partReset _ _
    · exact k.partReset _ _
    · exact k.tick _ h
    · exact k.sync _ h
    · exact k.event _ _ h
    · exact k.event _ _ h
    · exact k.event _ _ h
    · exact k.event _ _ h
    · exact k.detect _ _ _ h
    · exact k.preambleDone _ _ h
    · exact k.symbol _ _ _ _ h
    · exact k.claim _ _ _ _ h
    · exact k.burstEnd _ _ _ _ h
    · split
      · exact k.pass _ _ h (by assumption)
      · exact h
    · exact k.link _ _ h
    · exact k.dataCharacter _ h
    · unfold faultyCharacter
      split
      · exact k.link _ _ h
      · exact h
    · exact k.link _ _ h

/-- A step, for a property that the queue of commands has no part in. -/
theorem step (k : KeptByOperations Inv) (hp : ∀ s x, Inv s → Inv { s with pending := x }) {s t : State} (h : Inv s)
    (hs : step s = .next t) : Inv t := by
  unfold Machine.step at hs
  split at hs
  · cases hs; exact h
  · exact k.exec _ (hp _ _ h) hs

end KeptByOperations
end Sys2Proof.Machine
end

