-- ==== Sys2Proof/Tests/Slice0.lean ====
section
/-! SUPPORT. Tests: the terms that the well-formedness check refuses, the manual's worked examples, one small step of
each kind of command, and for every obligation with hypotheses a state and operands that meet them. -/

namespace Sys2Proof.Tests

open Sys2Proof Sys2Proof.Machine

set_option Elab.async false

/-! ### Small states -/

/-- A record in TRAINING on channel 1 with SID 7. -/
def record : Station :=
  { Station.reset with state := .training, sid := 7, channel := 1, missReload := 3, missesRemaining := 3 }

/-- The part after reset with that record in slot 0, at tick 110. -/
def known : State := State.setSidEntry (State.setStation { State.reset with counter := 110 } 0 record) 7 (some 0)

def unicast (kind : GrantKind) : Window := ⟨.unicast, kind, 100, 200, 7, some 0⟩
def contention : Window := ⟨.contention, .initial, 100, 200, 0, none⟩

/-- A map of channel 1 with two grants, the first of them of this kind. -/
def twoGrants (kind : GrantKind) (sid : Sid) : BurstMap := ⟨90, 1000, [⟨100, 100, sid, kind⟩, ⟨400, 50, 7, .data⟩]⟩

/-- Channel 1 RUNNING on a map with this next-grant position. -/
def running (m : BurstMap) (k : Nat) (s : State) : State :=
  (s.setMap 1 ⟨.running, some m, some k, .empty⟩).setPoint 1 { s.point 1 with mapEnd := some m.stop }

/-- Channel 1 with these burst items. -/
def bursting (b : Burst) : State := known.setBurst 1 b

/-- The items of a burst in progress on channel 1. -/
def items (state : SequencerState) (w : Window) : Burst :=
  { Burst.reset with state := state, window := some w, used := true, capture := some ⟨105, 3⟩, slot := w.slot }

/-- A unicast burst of engine E0 in EQUALISED mode. -/
def equalised (kind : GrantKind) : Burst :=
  { items .live (unicast kind) with engine := .granted 0, mode := .equalised, headerSent := true }

def engineLive (armed : Bool) (passes : Nat) : Engine :=
  { Engine.reset with state := .live, channel := some 1, slot := some 0, kind := some .maint,
                      working := some .whenAbsent, armed := armed, shift := if armed then some 4 else none,
                      passes := passes }

def engineSettling (slot : Slot) (start : Tick) : Engine :=
  { Engine.reset with state := .settling, slot := some slot, kind := some .maint, working := some .whenAbsent,
                      armed := true, shift := some 4, passes := 2, errors := some ⟨1, 2, 3⟩,
                      settlingStart := some start, checkpoint := some .whenAbsent }

/-- The burst on E0, with the record bound to it. -/
def served (kind : GrantKind) (armed : Bool) (passes : Nat) : State :=
  State.setEngine (State.setStation (bursting (equalised kind)) 0 { record with binding := .burst 1 }) 0
    (engineLive armed passes)

/-- A request that waits for an engine on channel 2. -/
def waiter : EngineRequest := ⟨2, 5, .data, ⟨108, 0⟩⟩

def allLive (s : State) : State := { s with engines := Vector.replicate 3 (engineLive false 0) }

/-- The response to a request, or none. -/
def answer (i : Instr) (s : State) : Option (List Nat) :=
  match exec i s with
  | .next t => t.link.sending.map fun l => l.map BitVec.toNat
  | .fault _ => none
  | .refused _ => none

def after (i : Instr) (s : State) : State :=
  match exec i s with
  | .next t => t
  | .fault _ => s
  | .refused _ => s

theorem forall_some {α : Type} {o : Option α} {x : α} (h : o = some x) {P : α → Prop} (hp : P x) :
    ∀ y, o = some y → P y := by
  intro y e; rw [h] at e; cases e; exact hp

theorem forall_none {α : Type} {o : Option α} (h : o = none) (P : α → Prop) : ∀ y, o = some y → P y := by
  intro y e; rw [h] at e; exact absurd e (by simp)

/-! ### Terms the check refuses -/

/-- Two coefficients where the tap count code says 8. -/
theorem test_wellFormed_coefficientCount :
    (Instr.writeStation 7 [.coefficients (.present 1 0 0 [⟨0, 0⟩, ⟨0, 0⟩])]).wellFormed = false := by decide
theorem test_wellFormed_admitCoefficients :
    (Instr.admitStation ⟨7, 0, 1, 0, none, none, .present 0 0 0 []⟩).wellFormed = false := by decide
/-- Four attention kinds. -/
theorem test_wellFormed_kinds : (Instr.ackAttention 7 [1, 2, 3, 1]).wellFormed = false := by decide
/-- An unknown identifier that does not end the list, and one that is not unknown. -/
theorem test_wellFormed_unknownLast :
    (Instr.writeStation 7 [.unknown 11 [], .channel 1]).wellFormed = false ∧
    (Instr.writeStation 7 [.unknown 10 []]).wellFormed = false := by decide
/-- A body that does not fit a frame. -/
theorem test_wellFormed_bodyTooLong :
    (Instr.writeStation 7 [.unknown 11 (List.replicate 248 0)]).wellFormed = false := by decide +kernel
theorem test_wellFormed_accepts :
    (Instr.writeStation 7 [.channel 1, .stepClass 0, .unknown 0 [5]]).wellFormed = true ∧
    (Instr.ackAttention 7 [1, 2, 3]).wellFormed = true := by decide

/-! ### Spelling -/

/-- The manual's example frame (11.6): SET PARAMETER, window lead, 24. -/
theorem test_frame_setParameter :
    encodeRequest (.setParameter 1 24) = some (0x52, [1, 24]) ∧
    requestFrame 0x52 [1, 24] = [0x52, 0x02, 0x01, 0x18, 0x6D] := by decide
theorem test_frame_answer : answer (.setParameter 1 24) State.reset = some [0, 0, 1, 24, 25] := by decide +kernel
/-- A character's 12 bit times (R180, R194): start, data least significant first, mark, even parity, stop. -/
theorem test_character_decode :
    decodeCharacter 0b110010100100 = some (.dataCharacter 0x52) ∧
    decodeCharacter 0b111000001010 = some (.addressCharacter 0x05) ∧
    decodeCharacter 0b100010100100 = some (.faultyCharacter .parity) ∧
    decodeCharacter 0b000010100100 = some (.faultyCharacter .framing) ∧
    decodeCharacter 0b110010100101 = none := by decide
theorem test_character_encode :
    encodeCharacter false 0x52 = 0b110010100100 ∧ encodeCharacter true 0x05 = 0b111000001010 := by decide

/-! ### Steps -/

/-- The arrival across the counter's wrap of 2.6: 11 ticks late. -/
theorem test_timingError_wrap : timingError ⟨5, 0⟩ 4294967290 = 704 := by decide +kernel

def filterEngine : Engine :=
  { engineLive true 2 with
    working := some ⟨.t8, 0, [⟨24576, 0⟩, ⟨16384, 8192⟩] ++ List.replicate 6 ⟨0, 0⟩⟩ }
def filterStart : State := State.setEngine (bursting (equalised .maint)) 0 filterEngine
def filterOne : State := after (.symbol 1 ⟨16384, BitVec.ofInt 16 (-16384)⟩ none) filterStart
def filterTwo : State := after (.symbol 1 ⟨30000, 10000⟩ none) filterOne
def filterThree : State :=
  after (.symbol 1 ⟨BitVec.ofInt 16 (-20001), 6⟩ (some ⟨BitVec.ofInt 16 (-2048), 16384⟩)) filterTwo

/-- The outputs and the clip count of the worked filter calculation (5.6). -/
theorem test_filter_outputs :
    filterThree.emitted 1 = [.symbol ⟨12288, BitVec.ofInt 16 (-12288)⟩, .symbol ⟨32767, 3404⟩,
      .symbol ⟨BitVec.ofInt 16 (-2501), 12505⟩] ∧ (filterThree.burst 1).clips = 1 := by decide +kernel

/-- The coefficients after its training symbol (5.6). -/
theorem test_filter_update :
    (filterThree.engine 0).working = some ⟨.t8, 0,
      [⟨24559, BitVec.ofInt 16 (-148)⟩, ⟨16484, 8405⟩, ⟨BitVec.ofInt 16 (-107), 135⟩]
        ++ List.replicate 5 ⟨0, 0⟩⟩ ∧
    (filterThree.engine 0).saturated = false ∧ (filterThree.engine 0).writePos = 3 ∧
    (filterThree.engine 0).training.length = 1 := by decide +kernel

def chainRecord : Station :=
  { Station.reset with
    state := .training, sid := 77, channel := 1, estimate := ⟨2000, -4, 0⟩, advertised := ⟨2000, -4, 0⟩,
    coefficients := some (.identity .t16 5), armed := true, vector := 20, remaining := 3, binding := .settling 0 }
def chainState : State :=
  ((State.reset.setStation 10 chainRecord).setDescriptor 20
    { Descriptor.empty with count := 3, chain := true, mask := ⟨true, true, false, false⟩, timingThreshold := 128,
                            powerThreshold := 8, passes := 3, coarseShift := 4, fineShift := 9 }).setDescriptor 21
    { Descriptor.empty with mask := ⟨false, false, true, true⟩, frequencyThreshold := 200, exportSet := true }
def chainDone (errors : Offsets) (s : State) : State :=
  complete ⟨10, errors, some (.identity .t16 5), (s.station 10).generation, true, false⟩ s

/-- Burst 1 of the worked chain (7.7): ADJUST, a correction with the set. -/
theorem test_chain_firstBurst :
    (chainDone ⟨500, 2, 350⟩ chainState).station 10 = { chainRecord with
      estimate := ⟨2500, -2, 350⟩, remaining := 2, lastVerdict := .adjust, exportWanted := true,
      correction := .queued, binding := .none } ∧
    (chainDone ⟨500, 2, 350⟩ chainState).queue =
      [⟨10, 77, ⟨500, 2, 350⟩, .adjust, some (.identity .t16 5)⟩] := by decide +kernel

/-- Bursts 1 and 2 with the take between them (7.7): SETTLED, LOCKED and FINE. -/
theorem test_chain_secondBurst :
    let s := chainDone ⟨40, -3, 60⟩ (after .takeCorrection (chainDone ⟨500, 2, 350⟩ chainState))
    (s.station 10).state = .locked ∧ (s.station 10).stepClass = .fine ∧ (s.station 10).remaining = 1 ∧
    (s.station 10).generation = 1 ∧ (s.station 10).estimate = ⟨2540, -5, 410⟩ ∧
    (s.station 10).advertised = ⟨2500, -2, 350⟩ ∧ (s.station 10).lastVerdict = .settled := by decide +kernel

def lockedState (x : StepClass) : State := chainState.setStation 10
  { chainRecord with state := .locked, stepClass := x, missReload := 1, missesRemaining := 1 }

/-- The last miss and a clean SETTLED completion of a LOCKED record, in both orders: STALE and FINE (R171). -/
theorem test_missAndCompletion_sameClass :
    let a := (chainDone ⟨0, 0, 0⟩ (countMiss 10 (lockedState .fine))).station 10
    let b := (countMiss 10 (chainDone ⟨0, 0, 0⟩ (lockedState .fine))).station 10
    (a.state = .stale ∧ a.stepClass = .fine ∧ a.lastVerdict = .settled) ∧ b.state = .stale ∧ b.stepClass = .fine := by
  decide +kernel

/-- A completion that leaves the record LOCKED leaves the class that WRITE STATION wrote before it (R8, R145, R147). -/
theorem test_lockedCompletion_keepsClass :
    let a := (chainDone ⟨0, 0, 0⟩ (lockedState .coarse)).station 10
    a.state = .locked ∧ a.stepClass = .coarse ∧ a.lastVerdict = .settled := by decide +kernel

theorem test_reset_status : answer .status State.reset =
    some ([0, 0, 34] ++ [0, 0, 0, 0, 4, 0] ++ List.replicate 28 0 ++ [38]) := by decide +kernel
theorem test_tick_wraps : (after .tick { State.reset with counter := 0xFFFFFFFF }).counter = 0 := by decide +kernel
theorem test_sync_loads :
    (after .sync (after (.timeLoad 9) State.reset)).counter = 9 := by decide +kernel
theorem test_admit_answer :
    answer (.admitStation ⟨9, 2, 5, 0, some 3, none, .absent 0⟩) State.reset = some [0, 0, 2, 0, 0, 2] ∧
    ((after (.admitStation ⟨9, 2, 5, 0, some 3, none, .absent 0⟩) State.reset).station 0).remaining = 1 ∧
    (after (.admitStation ⟨9, 2, 5, 0, some 3, none, .absent 0⟩) State.reset).sidEntry 9 = some 0 := by decide +kernel
theorem test_lookup_answer : answer (.lookup 7) known = some ([0, 0, 42] ++ [0, 0, 1, 0, 7, 1] ++ List.replicate 25 0
    ++ [3, 3] ++ List.replicate 8 0 ++ [128] ++ [185]) := by decide +kernel
theorem test_lookup_notFound : answer (.lookup 8) known = some [2, 0, 0, 2] := by decide +kernel
theorem test_retire_answer : answer (.retire 7) known = some [0, 0, 3, 0, 0, 0, 3] ∧
    (after (.retire 7) known).station 0 = Station.reset ∧ (after (.retire 7) known).sidEntry 7 = none := by
  decide +kernel
theorem test_detect_binds :
    ((after (.detect 1 9) (bursting { items .opened (unicast .maint) with used := false })).station 0).binding = .burst 1 ∧
    ((after (.detect 1 9) (bursting { items .opened (unicast .maint) with used := false })).burst 1).state = .live := by
  decide +kernel
theorem test_end_settles :
    ((after (.burstEnd 1 2 (-15)) (served .maint true 2)).engine 0).state = .settling ∧
    ((after (.burstEnd 1 2 (-15)) (served .maint true 2)).station 0).lastMeasured =
      some ⟨.maint, ⟨323, 2, -15⟩⟩ := by decide +kernel
theorem test_map_grant :
    answer (.mapGrant 1 120 40 7 1) (State.reset.setMap 1 { ChannelMap.reset with pendingMap := .building ⟨100, 900, []⟩ }) =
      some [0, 0, 1, 1, 2] := by decide +kernel
theorem test_mapClose_promotes :
    ((after (.mapClose 1) (State.reset.setMap 1 ⟨.starved, none, none, .building (twoGrants .data 7)⟩)).map 1).state =
      .running ∧
    ((after (.mapClose 1) (State.reset.setMap 1 ⟨.starved, none, none, .building (twoGrants .data 7)⟩)).point 1) =
      ⟨some 84, none, none, some 1000⟩ := by decide +kernel
theorem test_windowOpen_resolves :
    ((after (.windowOpen 1) (((running (twoGrants .data 7) 0 known)).setPoint 1 ⟨some 110, none, none, some 1000⟩)).burst 1)
      = { Burst.reset with state := .opened, window := some (unicast .data) } := by decide +kernel
theorem test_probe_enters :
    (after (.burstEnd 1 1 1) (bursting { items .live contention with claim := some ⟨0xABC, true⟩ })).probes =
      [⟨0xABC, 1, 105, ⟨323, 1, 1⟩, 1, 0⟩] := by decide +kernel

/-! ### A state and operands for the hypotheses of every obligation

One theorem for each obligation that has hypotheses, one clause of it for each clause of the obligation. -/

theorem witness_StepTakesFrontCommand :
    ({ State.reset with pending := [.tick] } : State).pending = .tick :: [] ∧ State.reset.pending = [] := ⟨rfl, rfl⟩
theorem witness_PartResetGivesResetValues :
    (Instr.partReset ⟨7, 3⟩ = .partReset ⟨7, 3⟩ ∨ Instr.partReset ⟨7, 3⟩ = .powerUp ⟨7, 3⟩) ∧
    (Instr.powerUp ⟨0, 0⟩ = .partReset ⟨0, 0⟩ ∨ Instr.powerUp ⟨0, 0⟩ = .powerUp ⟨0, 0⟩) := by decide
theorem witness_TickAdvancesCounter : ∀ c, (State.reset.point c).opening ≠ some State.reset.counter ∧
    (State.reset.point c).close ≠ some State.reset.counter ∧ (State.reset.point c).grace ≠ some State.reset.counter ∧
    (State.reset.point c).mapEnd ≠ some State.reset.counter := by decide +kernel
theorem witness_TimeLoadPendsUntilSync :
    (({ State.reset with loadPending := true } : State).loadPending = true ∧ State.reset.loadPending = false) ∧
    (State.reset.link.sending = none ∧ (∀ c, (State.reset.map c).state = .off)) ∧
    ((running (twoGrants .data 7) 0 known).link.sending = none ∧
      ((running (twoGrants .data 7) 0 known).map 1).state ≠ .off) := by decide +kernel

/-- A lead of 255 brings the grant at 400 to its opening only later, and that at 100 to it now. -/
theorem witness_SetParameterWritesSetting :
    known.link.sending = none ∧ (2 : Byte) = 2 ∧ (255 : Byte) ≠ 0 ∧
    (let s := running (twoGrants .data 7) 0 { known with counter := 80 }
     s.link.sending = none ∧ (s.point 1).close = none ∧
     Claims.nextGrant (s.map 1) = some ⟨100, 100, 7, .data⟩ ∧ Claims.atOrBefore (100 - BitVec.ofNat 32 255) s.counter ∧
     ¬ Claims.atOrBefore (100 - BitVec.ofNat 32 19) s.counter) ∧
    (((0 : Byte) ≠ 1 ∧ (0 : Byte) ≠ 2) ∧ ((3 : Byte) ≠ 1 ∧ (3 : Byte) ≠ 2) ∧ ((2 : Byte) = 2 ∧ (0 : Byte) = 0)) := by
  decide +kernel

/-- The three kinds of window, and a burst still in grace when the next window opens. -/
theorem witness_WindowOpensAtOpeningPoint :
    let s := (running (twoGrants .data 7) 0 known).setPoint 1 ⟨some 110, none, none, some 1000⟩
    ((s.point 1).opening = some s.counter ∧ (s.point 1).close = none ∧
      Claims.nextGrant (s.map 1) = some ⟨100, 100, 7, .data⟩ ∧ Claims.nextPosition (s.map 1) = some 1) ∧
    Claims.windowOf s 1 ⟨100, 100, 7, .data⟩ = unicast .data ∧
    Claims.windowOf s 1 ⟨100, 100, 7, .maint⟩ = unicast .maint ∧
    Claims.windowOf s 1 ⟨100, 100, 0, .initial⟩ = contention ∧
    Claims.windowOf s 1 ⟨100, 100, 8, .data⟩ = ⟨.void, .data, 100, 200, 8, none⟩ ∧
    (let u := (s.setBurst 1 { equalised .maint with state := .grace }).setPoint 1 ⟨some 110, none, some 130, some 1000⟩
     (u.point 1).opening = some u.counter ∧ (u.point 1).close = none ∧ (u.burst 1).state = .grace ∧
     (u.burst 1).window = some (unicast .maint)) := by decide +kernel

theorem witness_WindowCloseGivesGraceOrClosesWindow :
    (let s := (bursting (items .live (unicast .maint))).setPoint 1 ⟨none, some 110, none, none⟩
     (s.point 1).close = some s.counter ∧ ((s.burst 1).state = .waiting ∨ (s.burst 1).state = .live)) ∧
    (let s := (bursting { items .opened (unicast .maint) with used := false }).setPoint 1 ⟨none, some 110, none, none⟩
     (s.point 1).close = some s.counter ∧ (s.burst 1).window = some (unicast .maint) ∧ (s.burst 1).state = .opened ∧
     Claims.unusedMaint 1 (unicast .maint) 0 s) ∧
    (let s := (bursting { items .opened contention with used := false }).setPoint 1 ⟨none, some 110, none, none⟩
     (s.burst 1).state = .opened ∧ ∀ i, ¬ Claims.unusedMaint 1 contention i s) ∧
    (let s := (running (twoGrants .data 7) 1 { known with counter := 390 }).setPoint 1 ⟨none, some 390, none, some 1000⟩
     (s.point 1).close = some s.counter ∧ Claims.nextGrant (s.map 1) = some ⟨400, 50, 7, .data⟩ ∧
     Claims.atOrBefore (400 - BitVec.ofNat 32 s.windowLead) s.counter) := by
  refine ⟨by decide +kernel, ⟨by decide +kernel, rfl, rfl, ?_⟩, ⟨by decide +kernel,
    fun i h => absurd h.kind (by decide)⟩, by decide +kernel⟩
  constructor <;> decide +kernel

theorem witness_MissesBringStaleness :
    ((known.station 0).state = .training ∧ 2 ≤ (known.station 0).missesRemaining) ∧
    (let s := known.setStation 0 { record with state := .locked, missesRemaining := 1 }
     (s.station 0).state = .locked ∧ (s.station 0).missesRemaining ≤ 1) ∧
    (known.station 1).state = .free := by decide +kernel

theorem witness_GraceExpiryTruncates :
    (let s := ((served .maint true 2).setBurst 1 { equalised .maint with state := .grace }).setPoint 1
       ⟨none, none, some 110, none⟩
     (s.point 1).grace = some s.counter ∧ (s.burst 1).state = .grace ∧ (s.burst 1).window = some (unicast .maint) ∧
     (s.burst 1).slot = some 0 ∧ (s.burst 1).engine = .granted 0 ∧ s.waiting = [] ∧
     (s.station 0).state = .training) ∧
    (let s := (bursting (items .grace contention)).setPoint 1 ⟨none, none, some 110, none⟩
     (s.point 1).grace = some s.counter ∧ (s.burst 1).state = .grace ∧ (s.burst 1).window = some contention ∧
     (s.burst 1).headerSent = false ∧ contention.kind = .contention) ∧
    (let s := (bursting { items .grace (unicast .data) with engine := .requested }).setPoint 1
       ⟨none, none, some 110, none⟩
     (s.burst 1).headerSent = false ∧ (s.burst 1).slot = some 0 ∧ (s.burst 1).engine = .requested ∧
     (s.station 0).state ≠ .retiring) ∧
    (let s := (bursting { items .grace (unicast .data) with engine := .requested }).setStation 0
       { record with state := .retiring }
     (s.burst 1).engine = .requested ∧ (s.station 0).state = .retiring ∧
     (s.station 0).attention = ⟨false, false, false⟩) := by decide +kernel

theorem witness_MapEndPromotesOrStarves :
    (let s := (running (twoGrants .data 7) 0 known).setPoint 1 ⟨none, none, none, some 110⟩
     (s.point 1).mapEnd = some s.counter ∧ ∀ m, (s.map 1).pendingMap ≠ .ready m) ∧
    (let s := (known.setMap 1 ⟨.running, some (twoGrants .data 7), none, .ready ⟨110, 1000, [⟨126, 9, 7, .data⟩]⟩⟩).setPoint 1
       ⟨none, none, none, some 110⟩
     (s.point 1).mapEnd = some s.counter ∧ (s.map 1).pendingMap = .ready ⟨110, 1000, [⟨126, 9, 7, .data⟩]⟩ ∧
     (s.point 1).close = none ∧ Claims.atOrBefore (126 - BitVec.ofNat 32 s.windowLead) s.counter) := by
  refine ⟨⟨by decide +kernel, fun m h => ?_⟩, by decide +kernel⟩
  exact absurd (show PendingMap.empty = .ready m from h) (by simp)

theorem witness_TimeEventsOnlyWhenReached :
    (known.point 0).opening ≠ some known.counter ∧ (known.point 0).close ≠ some known.counter ∧
    (known.point 0).grace ≠ some known.counter ∧ (known.point 0).mapEnd ≠ some known.counter := by decide +kernel

theorem witness_OtherDetectsStartContentionDisturbOrAreIgnored :
    (let s := bursting (items .opened contention)
     (s.point 1).close ≠ some s.counter ∧ (s.burst 1).state = .opened ∧ (s.burst 1).window = some contention ∧
     contention.kind = .contention) ∧
    (items .waiting (unicast .data)).state = .waiting ∧ (items .live contention).state = .live ∧
    (let s := (bursting (items .opened contention)).setPoint 1 ⟨none, some 110, none, none⟩
     (s.point 1).close = some s.counter) ∧
    Burst.reset.state = .closed ∧ (items .grace contention).state = .grace ∧
    (let s := bursting (items .opened (unicast .data))
     (s.burst 1).state = .opened ∧ (s.burst 1).window = some (unicast .data) ∧ (s.burst 1).used = true) ∧
    (let s := (bursting (items .opened (unicast .data))).setStation 0 { record with channel := 2 }
     (unicast .data).slot = some 0 ∧ (s.station 0).channel ≠ 1) := by decide +kernel

def openUnused : State := bursting { items .opened (unicast .maint) with used := false, slot := none, capture := none }

theorem bindable_openUnused : Claims.bindable 1 (unicast .maint) 0 openUnused := by constructor <;> decide +kernel

theorem witness_DetectBindsAndLoadsIdleEngine :
    Claims.bindable 1 (unicast .maint) 0 openUnused ∧ (openUnused.station 0).binding = .none ∧
    (openUnused.engine 0).state = .idle ∧ (∀ d, d < 0 → (openUnused.engine d).state ≠ .idle) ∧
    (let s := (openUnused.setEngine 0 (engineLive false 0)).setEngine 1 (engineSettling 9 50)
     (s.engine 2).state = .idle ∧ ∀ d, d < 2 → (s.engine d).state ≠ .idle) :=
  ⟨bindable_openUnused, by decide +kernel⟩

theorem witness_DetectPreemptsEarliestSettling :
    let s := ((allLive openUnused).setEngine 1 (engineSettling 9 50)).setEngine 2 (engineSettling 8 50)
    Claims.bindable 1 (unicast .maint) 0 s ∧ (s.station 0).binding = .none ∧ (∀ d, (s.engine d).state ≠ .idle) ∧
    (s.engine 1).state = .settling ∧ (s.engine 1).settlingStart = some 50 ∧
    (∀ d, d ≠ 1 → (s.engine d).state = .settling →
      ∃ y, (s.engine d).settlingStart = some y ∧ (Claims.before 50 y ∨ ((50 : Tick) = y ∧ 1 < d))) ∧
    (s.engine 1).slot = some 9 ∧ (9 : Slot) ≠ 0 ∧ (s.engine 1).errors = some ⟨1, 2, 3⟩ := by
  refine ⟨?_, by decide +kernel, by decide +kernel, by decide +kernel, by decide +kernel, fun d h1 h2 => ?_,
    by decide +kernel, by decide +kernel⟩
  · constructor <;> decide +kernel
  · refine ⟨50, ?_⟩
    revert d; decide +kernel

theorem witness_DetectEndsItsRecordsSettling :
    let s := (openUnused.setStation 0 { record with binding := .settling 1 }).setEngine 1 (engineSettling 0 50)
    Claims.bindable 1 (unicast .maint) 0 s ∧ (s.station 0).binding = .settling 1 ∧ s.waiting = [] ∧
    (s.engine 1).slot = some 0 ∧ (s.engine 1).errors = some ⟨1, 2, 3⟩ ∧ (s.engine 0).state = .idle ∧
    (∀ x, x < 0 → x ≠ 1 ∧ (s.engine x).state ≠ .idle) ∧
    (∀ x, x < 1 → x ≠ 1 ∧ ((allLive s).engine x).state ≠ .idle) := by
  refine ⟨?_, by decide +kernel⟩
  constructor <;> decide +kernel

theorem witness_DetectWaitsWhenEveryEngineIsLive :
    Claims.bindable 1 (unicast .maint) 0 (allLive openUnused) ∧ ((allLive openUnused).station 0).binding = .none ∧
    (∀ e, ((allLive openUnused).engine e).state = .live) := by
  refine ⟨?_, by decide +kernel⟩
  constructor <;> decide +kernel

theorem witness_PreambleDoneDecidesMode :
    (let b := { items .live (unicast .data) with engine := .granted 2 }
     b.window = some (unicast .data) ∧ b.slot = some 0 ∧ b.mode = .undecided ∧ b.engine = .granted 2 ∧
     exec (.preambleDone 1) (bursting b) = .next (after (.preambleDone 1) (bursting b))) ∧
    (let b := { items .waiting (unicast .data) with engine := .requested }
     b.window = some (unicast .data) ∧ b.mode = .undecided ∧ b.engine = .requested ∧ b.state = .waiting) ∧
    (equalised .data).mode ≠ .undecided ∧ Burst.reset.state = .closed ∧
    (items .opened (unicast .data)).state = .opened ∧
    ((items .live contention).window = some contention ∧ contention.kind = .contention) :=
  ⟨⟨rfl, rfl, rfl, rfl, rfl⟩, by decide +kernel⟩

theorem witness_SymbolInBypassPassesUnchanged :
    (let b := { items .live (unicast .data) with mode := .bypass }
     b.window = some (unicast .data) ∧ (b.state = .live ∨ b.state = .grace) ∧ b.mode = .bypass) ∧
    (items .waiting (unicast .data)).mode = .undecided ∧ (items .opened (unicast .data)).state = .opened := by decide

theorem witness_SymbolIsFilteredAndClipped :
    let s := filterStart
    (s.burst 1).window = some (unicast .maint) ∧ (s.burst 1).state = .live ∧ (s.burst 1).mode = .equalised ∧
    (s.burst 1).engine = .granted 0 ∧ (s.engine 0).working = filterEngine.working ∧
    (∀ f, filterEngine.working = some f → f.taps.length ≤ 32) ∧ ((served .data false 0).engine 0).armed = false :=
  ⟨by decide +kernel, by decide +kernel, by decide +kernel, by decide +kernel, by decide +kernel,
    forall_some rfl (by decide), by decide +kernel⟩

theorem witness_TrainingSymbolAdaptsCoefficients :
    let s := filterStart
    (s.burst 1).window = some (unicast .maint) ∧ (s.burst 1).state = .live ∧ (s.burst 1).mode = .equalised ∧
    (s.burst 1).engine = .granted 0 ∧ (s.engine 0).working = filterEngine.working ∧ (s.engine 0).armed = true ∧
    (s.engine 0).shift = some 4 ∧ (∀ f, filterEngine.working = some f → f.taps.length ≤ 32) :=
  ⟨by decide +kernel, by decide +kernel, by decide +kernel, by decide +kernel, by decide +kernel, by decide +kernel,
    by decide +kernel, forall_some rfl (by decide)⟩

theorem witness_ClaimIsStoredInContentionBurst :
    ((items .live contention).window = some contention ∧ contention.kind = .contention ∧
      (items .live contention).state = .live) ∧
    ((items .live (unicast .data)).window = some (unicast .data) ∧ (unicast .data).kind = .unicast) ∧
    (Burst.reset.state = .closed ∧ Burst.reset.window = none) ∧
    (let s := bursting (items .opened contention)
     (s.point 1).close ≠ some s.counter ∧ (s.burst 1).window = some contention ∧ (s.burst 1).state = .opened) := by
  decide +kernel

def claiming (valid : Bool) : Burst := { items .live contention with claim := some ⟨0xABC, valid⟩ }
def probe (token : Token) : Probe := ⟨token, 1, 100, ⟨0, 0, 0⟩, 255, 2⟩

theorem witness_ContentionEndHandsClaimOn :
    ((claiming true).window = some contention ∧ (claiming true).state = .live ∧ (claiming true).disturbed = false ∧
      (claiming true).claim = some ⟨0xABC, true⟩ ∧ (claiming true).capture = some ⟨105, 3⟩) ∧
    (∃ p ∈ [probe 0xABC], p.token = 0xABC) ∧
    ((∀ p ∈ List.replicate 15 (probe 1), p.token ≠ 0xABC) ∧ (List.replicate 15 (probe 1)).length < 16) ∧
    ((∀ p ∈ List.replicate 16 (probe 1), p.token ≠ 0xABC) ∧ 16 ≤ (List.replicate 16 (probe 1)).length) ∧
    (claiming false).claim = some ⟨0xABC, false⟩ ∧ (items .live contention).claim = none ∧
    Burst.reset.state = .closed := by
  refine ⟨by decide, ⟨probe 0xABC, by decide⟩, by decide, by decide, by decide⟩

theorem ending_served (kind : GrantKind) (armed : Bool) (passes : Nat) :
    Claims.ending 1 (unicast kind) 0 (served kind armed passes) := by
  constructor <;> simp [served, bursting, equalised, items, unicast]

/-- A burst on an engine, with and without a request waiting, and one in BYPASS. -/
theorem witness_DataEndWritesAndUnbindsRecord :
    (Claims.ending 1 (unicast .data) 0 (served .data false 0) ∧ (unicast .data).grant = .data ∧
      ((served .data false 0).burst 1).disturbed = false ∧
      ((served .data false 0).burst 1).capture = some ⟨105, 3⟩ ∧
      ((served .data false 0).station 0).state ≠ .retiring ∧ ((served .data false 0).burst 1).engine = .granted 0) ∧
    ({ served .data false 0 with waiting := [waiter] } : State).waiting = [waiter] ∧
    (let b := { items .live (unicast .data) with mode := .bypass, headerSent := true }
     Claims.ending 1 (unicast .data) 0 (bursting b) ∧ b.engine = .none) := by
  refine ⟨⟨ending_served _ _ _, by decide +kernel⟩, rfl, ?_, rfl⟩
  constructor <;> decide +kernel

theorem witness_DisturbedAndRetiringEndsWriteNoMeasurement :
    (let s := (served .maint true 2).setBurst 1 { equalised .maint with disturbed := true }
     Claims.ending 1 (unicast .maint) 0 s ∧ (s.burst 1).disturbed = true ∧ (s.station 0).state ≠ .retiring) ∧
    (let s := bursting { items .live (unicast .maint) with mode := .bypass, disturbed := true }
     Claims.ending 1 (unicast .maint) 0 s ∧ (s.burst 1).disturbed = true ∧ (s.burst 1).engine = .none) ∧
    (let s := (served .maint true 2).setStation 0 { record with state := .retiring, binding := .burst 1 }
     Claims.ending 1 (unicast .maint) 0 s ∧ (s.station 0).state = .retiring) := by
  refine ⟨⟨?_, by decide +kernel⟩, ⟨?_, by decide +kernel⟩, ?_, by decide +kernel⟩ <;>
    (constructor <;> decide +kernel)

theorem witness_MaintEndStartsSettling :
    let s := served .maint true 1
    Claims.ending 1 (unicast .maint) 0 s ∧ (unicast .maint).grant = .maint ∧ (s.burst 1).disturbed = false ∧
    (s.burst 1).capture = some ⟨105, 3⟩ ∧ (s.station 0).state ≠ .retiring ∧ (s.burst 1).engine = .granted 0 ∧
    (s.engine 0).armed = true ∧ 0 < (s.engine 0).passes ∧ s.waiting = [] :=
  ⟨ending_served _ _ _, by decide +kernel⟩

theorem witness_MaintEndCompletesWithoutSettling :
    (let s := served .maint true 0
     Claims.ending 1 (unicast .maint) 0 s ∧ (unicast .maint).grant = .maint ∧ (s.burst 1).disturbed = false ∧
     (s.burst 1).capture = some ⟨105, 3⟩ ∧ (s.station 0).state ≠ .retiring ∧ (s.burst 1).engine = .granted 0 ∧
     (s.engine 0).passes = 0) ∧
    ((served .maint false 0).engine 0).armed = false ∧
    (let s := { served .maint true 1 with waiting := [waiter] }
     s.waiting ≠ [] ∧ (s.engine 0).armed = true ∧ 0 < (s.engine 0).passes) ∧
    (let s := bursting { items .live (unicast .maint) with mode := .bypass }
     Claims.ending 1 (unicast .maint) 0 s ∧ (s.burst 1).engine = .none) := by
  refine ⟨⟨ending_served _ _ _, by decide +kernel⟩, by decide +kernel, by decide +kernel, ?_, by decide +kernel⟩
  constructor <;> decide +kernel

theorem witness_PassCompletionCheckpointsOrCompletes :
    (let s := known.setEngine 1 (engineSettling 0 50)
     (s.engine 1).state = .settling ∧ (s.engine 1).working = some .whenAbsent ∧
     CoefficientSet.whenAbsent.taps.length ≤ 32 ∧ (s.engine 1).shift = some 4 ∧
     (s.engine 1).passesDone + 1 < (s.engine 1).passes ∧ (s.engine 0).state ≠ .settling) ∧
    (let s := known.setEngine 1 { engineSettling 0 50 with passesDone := 1 }
     (s.engine 1).state = .settling ∧ (s.engine 1).passes ≤ (s.engine 1).passesDone + 1 ∧
     (s.engine 1).slot = some 0 ∧ (s.engine 1).errors = some ⟨1, 2, 3⟩) := by decide +kernel

def chainReport : Report := ⟨10, ⟨500, 2, 350⟩, some (.identity .t16 5), 0, true, false⟩

theorem witness_CompletionWritesEstimatesAndSet :
    ((chainState.station 10).armed = true ∧ (chainState.station 10).state ≠ .retiring ∧
      (∃ d ∈ Claims.chain chainState 20, d.mask.timing = true) ∧ (∃ d ∈ Claims.chain chainState 20, d.mask.power = true) ∧
      (∃ d ∈ Claims.chain chainState 20, d.mask.frequency = true) ∧
      (∃ d ∈ Claims.chain chainState 20, d.mask.coefficients = true) ∧
      Claims.writtenBack chainReport (chainState.station 10)) ∧
    (∀ d ∈ Claims.chain chainState 21, d.mask.timing = false ∧ d.mask.power = false) ∧
    (∀ d ∈ Claims.chain chainState 127, d.mask.frequency = false ∧ d.mask.coefficients = false) ∧
    ¬ Claims.writtenBack { chainReport with generation := 1 } (chainState.station 10) ∧
    ((known.station 0).armed = false ∧ (known.station 0).state ≠ .retiring) ∧
    (Claims.chain chainState 20).length = 2 ∧ (Claims.chain chainState 127).length = 1 := by
  unfold Claims.writtenBack; decide +kernel

/-- A run that is not within, one that is, and one that runs out on a record still training. -/
theorem witness_CompletionDecidesVerdictAndMoves :
    ((chainState.station 10).armed = true ∧ 1 ≤ (chainState.station 10).remaining ∧
      (chainState.station 10).state ≠ .retiring ∧ 2 ≤ (chainState.station 10).remaining) ∧
    ¬ (∀ d ∈ Claims.chain chainState 20, Claims.stepWithin chainReport (chainState.station 10) d) ∧
    (∀ d ∈ Claims.chain chainState 20,
      Claims.stepWithin { chainReport with errors := ⟨128, -8, 200⟩ } (chainState.station 10) d) ∧
    { chainRecord with remaining := 1 }.remaining = 1 ∧ (chainState.descriptor 20).mode = .once := by
  unfold Claims.stepWithin Claims.writtenBack; decide +kernel

theorem witness_CorrectionRequestByState :
    ((known.station 0).correction = .none ∧ known.queue.length < 32) ∧
    (32 ≤ ({ known with queue := List.replicate 32 ⟨3, 9, ⟨0, 0, 0⟩, .adjust, none⟩ } : State).queue.length) ∧
    { record with correction := .held }.correction = .held ∧ { record with correction := .queued }.correction = .queued
    := by decide +kernel

theorem witness_CharactersMoveReceiver :
    ((0 : Byte).toNat = State.reset.link.address.toNat ∧ (8 : Byte).toNat ≠ State.reset.link.address.toNat) ∧
    (after (.addressCharacter 0) State.reset).link.receiver = .awaitCode ∧
    State.reset.link.receiver = .deselected ∧
    (after (.faultyCharacter .parity) (after (.addressCharacter 0) State.reset)).link.receiver = .discarding ∧
    (after (.dataCharacter 0x52) (after (.addressCharacter 0) State.reset)).link.receiver = .awaitLength 0x52 0x52 ∧
    (after (.dataCharacter 2) (after (.dataCharacter 0x52) (after (.addressCharacter 0) State.reset))).link.receiver =
      .body ⟨0x52, 2, [], 0, 0x54⟩ := by decide +kernel

def checking (p : PartialRequest) : State :=
  { State.reset with link := { State.reset.link with receiver := .awaitChecksum p } }

theorem witness_ChecksumCharacterTakesRequest :
    ((checking ⟨0x51, 0, [], 0, 0x51⟩).link.receiver = .awaitChecksum ⟨0x51, 0, [], 0, 0x51⟩ ∧
      (checking ⟨0x51, 0, [], 0, 0x51⟩).link.sending = none ∧ (0x51 : Byte) ≠ 0x52) ∧
    decodeRequest 0x02 [] = .error .unknown ∧ decodeRequest 0x51 [0] = .error .length ∧
    decodeRequest 0x51 [] = .ok .timeRead ∧ ((0 : Byte).toNat ≤ 250) ∧
    decodeRequest 0x13 [0, 7, 11] = .ok (.writeStation 7 [.unknown 11 []]) ∧
    250 < (251 : Byte).toNat := by
  refine ⟨by decide +kernel, rfl, rfl, rfl, by decide, rfl, by decide⟩

theorem witness_OverrunDiscardsRequest :
    encodeRequest .timeRead ≠ none ∧ (after .timeRead State.reset).link.sending ≠ none ∧
    (after .timeRead (checking ⟨0x51, 0, [], 0, 0x51⟩)).link.sending ≠ none := by decide +kernel

theorem witness_StatusReportsAndClearsOverflow : State.reset.link.sending = none := rfl

theorem witness_UnknownSidOrChannelIsRefused :
    Claims.sidRefusal known 0 .range ∧ Claims.sidRefusal known 4095 .range ∧ Claims.sidRefusal known 1 .notFound ∧
    Claims.sidRefusal known 4094 .notFound ∧ known.link.sending = none ∧
    settingsSpelled [.channel 1] = true ∧ (∀ n rest, Setting.unknown n rest ∉ [Setting.channel 1]) ∧
    ([1, 2, 3] : List Byte).length ≤ 3 ∧ 4 ≤ (4 : Byte).toNat ∧
    (settingsSpelled [.channel 1, .unknown 11 [9]] = true ∧
      Setting.unknown 11 [9] ∈ [Setting.channel 1, .unknown 11 [9]]) := by
  refine ⟨?_, ?_, ?_, ?_, rfl, by decide, by simp, by decide⟩ <;> (unfold Claims.sidRefusal; decide +kernel)

/-- An identifier outside 1..10 is refused before the empty SID Map entry is found (R196, R199). -/
theorem test_unknownIdentifier_first : answer (.writeStation 1 [.unknown 11 []]) known = some [6, 0, 0, 6] ∧
    answer (.writeStation 1 [.channel 1]) known = some [2, 0, 0, 2] := by decide +kernel
/-- A DETECT after the TICK that brought the close point is ignored (R38). -/
theorem test_detect_atClose :
    (after (.detect 1 9) ((bursting (items .opened contention)).setPoint 1 ⟨none, some 110, none, none⟩)).burst 1 =
      items .opened contention := by decide +kernel

theorem witness_LookupsReportRecordAndScanFindsAttention :
    Claims.sidNames known 7 0 ∧ (1023 : BitVec 16).toNat = (1023 : Slot).val ∧ 1024 ≤ (1024 : BitVec 16).toNat ∧
    (4 ≤ (4 : Byte).toNat) ∧
    (let s := known.setStation 0 { record with attention := ⟨true, false, false⟩ }
     (0 : BitVec 16).toNat ≤ (0 : Slot).val ∧ (s.station 0).attention.has .staleNew = true ∧
     ∀ j : Slot, (0 : BitVec 16).toNat ≤ j.val → j < 0 → (s.station j).attention.has .staleNew = false) ∧
    (∀ j : Slot, (1023 : BitVec 16).toNat ≤ j.val → (known.station j).attention.has .saturated = false) := by
  unfold Claims.sidNames; decide +kernel

theorem witness_WriteStationAppliesSettings :
    known.link.sending = none ∧ Claims.sidNames known 7 0 ∧
    Claims.settingsTaken (known.station 0) [.channel 3, .timingEstimate 0x0FFFFF, .powerEstimate 0xFF00,
      .frequencyEstimate 0x8000, .advertisedTiming 0xF00000, .advertisedPower 255, .advertisedFrequency 0x7FFF,
      .coefficients (.present 1 0 7 (List.replicate 8 ⟨0, 0⟩)), .missReload 1, .stepClass 1] ∧
    Claims.settingsTaken { record with binding := .burst 1 } [.missReload 255, .stepClass 0] ∧
    Claims.settingsTaken (known.station 0) [.coefficients (.absent 0)] := by
  refine ⟨rfl, by unfold Claims.sidNames; decide +kernel, ?_, ?_, ?_⟩
  · refine ⟨by decide +kernel, by decide +kernel, ?_, fun h => absurd (show (known.station 0).binding = .none by decide +kernel) h⟩
    simp [Claims.settingInRange, tapsOfCode]
  · refine ⟨by decide, by decide, ?_, fun _ => ?_⟩
    · simp [Claims.settingInRange]
    · simp
  · refine ⟨by decide, by decide, ?_, fun h => absurd (show (known.station 0).binding = .none by decide +kernel) h⟩
    simp [Claims.settingInRange]

def newcomer (token : Option Token) : AdmitBody := ⟨8, 3, 255, 0, some 127, token, .absent 0⟩

theorem newcomer_values (token : Option Token) : Claims.admitValues (newcomer token) 8 3 (some 127) none := by
  constructor
  · exact ⟨rfl, by decide, by decide⟩
  · rfl
  · show 1 ≤ (255 : Byte).toNat; decide
  · rfl
  · rfl
  · exact .inl ⟨rfl, rfl⟩

theorem witness_AdmitWritesRecord :
    let s := { known with probes := [probe 1, probe 0xABC, probe 2] }
    s.link.sending = none ∧ Claims.admitValues (newcomer none) 8 3 (some 127) none ∧ s.sidEntry 8 = none ∧
    (s.station 1).state = .free ∧ (∀ j, j < 1 → (s.station j).state ≠ .free) ∧
    s.probes = [probe 1] ++ probe 0xABC :: [probe 2] ∧ (probe 0xABC).token = 0xABC ∧
    (∀ q ∈ [probe 1] ++ [probe 2], q.token ≠ 0xABC) ∧ (probe 0xABC).errors.InRange ∧ s.queue.length < 32 := by
  refine ⟨rfl, newcomer_values _, by decide +kernel, by decide +kernel, by decide +kernel, rfl, rfl, by decide,
    ⟨by decide, by decide, by decide⟩, by decide⟩

def fullTable : State := { known with stations := Vector.replicate 1024 record }

theorem witness_SetUpRefusals :
    (known.link.sending = none ∧ Claims.sidNames known 7 0 ∧ settingsSpelled [.channel 1, .channel 1] = true ∧
      ¬ ([.channel 1, .channel 1].map Setting.identifier).Nodup) ∧
    (settingsSpelled [.channel 4] = true ∧ ¬ Claims.settingInRange (.channel 4)) ∧
    (let s := known.setStation 0 { record with binding := .burst 1 }
     (s.station 0).binding ≠ .none ∧ (∃ x ∈ [Setting.channel 1], (∀ y, x ≠ .missReload y) ∧ (∀ y, x ≠ .stepClass y))) ∧
    (∀ sid channel vector set, ¬ Claims.admitValues { newcomer none with channel := 4 } sid channel vector set) ∧
    (∀ v, v = (8 : Sid) → (fullTable.sidEntry v = none ∧ ∀ i, (fullTable.station i).state ≠ .free)) ∧
    known.sidEntry 7 ≠ none ∧ (newcomer (some 5)).token = some 5 ∧ (∀ p ∈ known.probes, p.token ≠ 5) := by
  refine ⟨⟨rfl, by unfold Claims.sidNames; decide +kernel, by decide, by decide⟩, ⟨by decide, by show ¬ (4 : Byte).toNat ≤ 3; decide⟩,
    ⟨by decide +kernel, .channel 1, by simp⟩, fun sid channel vector set h => ?_, ?_, by decide +kernel, rfl,
    by decide +kernel⟩
  · have := h.channel
    have h4 : (4 : Byte).toNat = channel.val := this
    have := channel.isLt
    have : (4 : Byte).toNat = 4 := rfl
    omega
  · rintro v rfl
    refine ⟨by decide +kernel, fun i => ?_⟩
    simp [fullTable, State.station, record]

theorem witness_RetireByHolderAndCorrection :
    (known.link.sending = none ∧ Claims.sidNames known 7 0 ∧ (known.station 0).correction = .none ∧
      (known.station 0).binding = .none) ∧
    ((known.setStation 0 { record with binding := .settling 2 }).station 0).binding = .settling 2 ∧
    ((served .data false 0).station 0).binding = .burst 1 ∧
    ((known.setStation 0 { record with correction := .held }).station 0).correction = .held ∧
    (let s := { known.setStation 0 { record with correction := .queued } with held := [9] }
     Claims.sidNames s 7 0 ∧ (s.station 0).correction = .queued ∧ s.held.head? ≠ some 0) := by
  unfold Claims.sidNames; decide +kernel

theorem witness_AckAttentionRemovesKinds :
    Claims.sidRefusal known 4095 .range ∧ known.link.sending = none ∧ Claims.sidNames known 7 0 ∧ ([1, 3, 1] : List Byte).length ≤ 3 ∧
    (∀ k ∈ ([1, 3, 1] : List Byte), k = 1 ∨ k = 2 ∨ k = 3) ∧ (∃ k ∈ ([1, 4] : List Byte), k = 0 ∨ 4 ≤ k.toNat) := by
  unfold Claims.sidNames Claims.sidRefusal; decide +kernel

theorem witness_ProgrammesArmAndDisarm :
    Claims.sidRefusal known 6 .notFound ∧ known.link.sending = none ∧ Claims.sidNames known 7 0 ∧ (127 : Byte).toNat = (127 : DescriptorId).val ∧
    128 ≤ (128 : Byte).toNat := by unfold Claims.sidNames Claims.sidRefusal; decide +kernel

def entry (slot : Slot) : Correction := ⟨slot, 7, ⟨1, 0, 0⟩, .adjust, none⟩

theorem witness_TakeCorrectionTakesHead :
    (known.link.sending = none ∧ known.queue = []) ∧
    (let s := { known with queue := [entry 0] }
     s.queue = entry 0 :: [] ∧ s.held = [] ∧ (s.station (entry 0).slot).reCorrect = false) ∧
    (let s := { known.setStation 0 { record with reCorrect := true } with queue := entry 0 :: List.replicate 31 (entry 3) }
     s.held = [] ∧ (s.station (entry 0).slot).reCorrect = true ∧ (List.replicate 31 (entry 3)).length < 32) ∧
    (let s := { known with queue := [entry 0], held := [9] }
     s.held = 9 :: [] ∧ (9 : Slot) ≠ (entry 0).slot ∧ (s.station (entry 0).slot).reCorrect = false) ∧
    (let s := { known.setStation 0 { record with reCorrect := true } with
                queue := entry 0 :: List.replicate 31 (entry 3), held := [9] }
     s.queue = entry 0 :: List.replicate 31 (entry 3) ∧ s.held = 9 :: [] ∧
     (s.station (entry 0).slot).reCorrect = true ∧ (List.replicate 31 (entry 3)).length = 31) := by decide +kernel

theorem witness_ProbesReportsAndDismissRemoves :
    (known.link.sending = none ∧ (15 : Byte).toNat ≤ 15 ∧ 16 ≤ (16 : Byte).toNat) ∧
    ([probe 1, probe 2] = [probe 1] ++ probe 2 :: [] ∧ (probe 2).token = 2 ∧
      ∀ q ∈ [probe 1] ++ ([] : List Probe), q.token ≠ 2) ∧
    (∀ p ∈ [probe 1], p.token ≠ 2) := by decide +kernel

theorem witness_MapOpenAndAbandonReplacePendingMap :
    (known.link.sending = none ∧ (3 : Byte).toNat = (3 : Channel).val) ∧
    (1 ≤ ((6 : Tick) - 5).toNat ∧ ((6 : Tick) - 5).toNat ≤ 1048576) ∧
    (1 ≤ ((1048575 : Tick) - 0xFFFFFFFF).toNat ∧ ((1048575 : Tick) - 0xFFFFFFFF).toNat ≤ 1048576) ∧
    (4 ≤ (4 : Byte).toNat ∧ 1048576 < ((1048577 : Tick) - 0).toNat) := by decide +kernel

theorem witness_MapGrantAppendsOrRefuses :
    (let m : BurstMap := ⟨100, 900, [⟨120, 40, 7, .maint⟩]⟩
     let s := State.reset.setMap 1 { ChannelMap.reset with pendingMap := .building m }
     s.link.sending = none ∧ (1 : Byte).toNat = (1 : Channel).val ∧ Claims.grantKindOf 0 = some .data ∧
     (740 : BitVec 16) ≠ 0 ∧ (4094 : BitVec 16).toNat = (4094 : Sid).val ∧
     ((4094 : Sid) = 0 ↔ GrantKind.data = .initial) ∧ (s.map 1).pendingMap = .building m ∧ m.grants.length < 48 ∧
     ((160 : Tick) - m.start).toNat + (740 : BitVec 16).toNat ≤ (m.stop - m.start).toNat ∧
     (∀ g, m.grants.getLast? = some g →
       (g.start - m.start).toNat + g.length.toNat ≤ ((160 : Tick) - m.start).toNat)) ∧
    ((∀ m, (State.reset.map 1).pendingMap ≠ .building m) ∧
      48 ≤ (BurstMap.mk 0 900 (List.replicate 48 ⟨0, 1, 7, .data⟩)).grants.length ∧
      ((900 : Tick) - 100).toNat < ((160 : Tick) - 100).toNat + (741 : BitVec 16).toNat ∧
      ((159 : Tick) - 100).toNat < ((120 : Tick) - 100).toNat + (40 : BitVec 16).toNat) ∧
    (3 ≤ (3 : Byte).toNat ∧ 4095 ≤ (4095 : BitVec 16).toNat ∧ ((0 : BitVec 16) = 0 ∧ (1 : Byte) ≠ 2) ∧
      ((7 : BitVec 16) ≠ 0 ∧ (2 : Byte) = 2)) := by
  refine ⟨⟨rfl, rfl, rfl, by decide, rfl, by decide, by decide +kernel, by decide, by decide,
    forall_some rfl (by decide)⟩, ⟨fun m h => ?_, by decide, by decide, by decide⟩, by decide⟩
  exact absurd (show PendingMap.empty = .building m from h) (by simp)

theorem witness_MapCloseReadiesOrPromotes :
    (State.reset.link.sending = none ∧ 4 ≤ (4 : Byte).toNat ∧ (1 : Byte).toNat = (1 : Channel).val ∧
      (∀ m', (State.reset.map 1).pendingMap ≠ .building m')) ∧
    (let a : BurstMap := ⟨90, 1000, []⟩
     Claims.before 999 a.stop ∧ ¬ Claims.before 1000 a.stop) ∧
    (Claims.before 109 known.counter ∧ ¬ Claims.before 110 known.counter ∧ (known.map 1).state ≠ .running) ∧
    (2 ^ 30 < ((110 + 0x40000001 : Tick) - known.counter).toNat ∧
      ((110 + 0x40000000 : Tick) - known.counter).toNat ≤ 2 ^ 30) ∧
    (let s := known.setMap 1 ⟨.starved, none, none, .building ⟨110, 900, [⟨120, 9, 7, .data⟩]⟩⟩
     (s.map 1).state = .starved ∧ (s.map 1).pendingMap = .building ⟨110, 900, [⟨120, 9, 7, .data⟩]⟩ ∧
     (s.point 1).close = none ∧ Claims.atOrBefore (120 - BitVec.ofNat 32 s.windowLead) s.counter) := by
  refine ⟨⟨rfl, by decide, rfl, fun m h => ?_⟩, by decide, by decide +kernel, by decide +kernel, by decide +kernel⟩
  exact absurd (show PendingMap.empty = .building m from h) (by simp)

theorem witness_ChannelOnStarvesOrPromotes :
    (known.link.sending = none ∧ (1 : Byte).toNat = (1 : Channel).val ∧
      ({ known with loadPending := true } : State).loadPending = true ∧ known.loadPending = false) ∧
    ((running (twoGrants .data 7) 0 known).map 1).state ≠ .off ∧
    ((known.map 1).state = .off ∧ ∀ m, (known.map 1).pendingMap ≠ .ready m) ∧
    (let s := known.setMap 1 { ChannelMap.reset with pendingMap := .ready ⟨109, 900, []⟩ }
     (s.map 1).pendingMap = .ready ⟨109, 900, []⟩ ∧ 2 ^ 30 < ((109 : Tick) - s.counter).toNat) ∧
    (let s := known.setMap 1 { ChannelMap.reset with pendingMap := .ready ⟨110, 900, []⟩ }
     (s.map 1).pendingMap = .ready ⟨110, 900, []⟩ ∧ ((110 : Tick) - s.counter).toNat ≤ 2 ^ 30) := by
  refine ⟨by decide +kernel, by decide +kernel, ⟨by decide +kernel, fun m h => ?_⟩, by decide +kernel, by decide +kernel⟩
  exact absurd (show PendingMap.empty = .ready m from h) (by simp)

theorem witness_ChannelOffResetsChannel :
    (known.link.sending = none ∧ (1 : Byte).toNat = (1 : Channel).val ∧
      (∀ w, (known.burst 1).window = some w → w.kind ≠ .unicast ∨ (known.burst 1).state = .closed ∨
        (known.burst 1).state = .opened)) ∧
    (let s := served .maint true 2
     (s.burst 1).window = some (unicast .maint) ∧ (s.burst 1).state = .live ∧ (s.burst 1).slot = some 0 ∧
     (s.burst 1).engine = .granted 0 ∧ (s.burst 1).headerSent = true) ∧
    (let b := { items .waiting (unicast .data) with engine := .requested }
     b.window = some (unicast .data) ∧ b.slot = some 0 ∧ b.state = .waiting) ∧
    (let b := { items .grace (unicast .data) with mode := .bypass, headerSent := true }
     b.window = some (unicast .data) ∧ b.slot = some 0 ∧ b.state = .grace ∧ b.engine = .none) :=
  ⟨⟨rfl, rfl, forall_none (by decide +kernel) _⟩, by decide +kernel⟩

theorem witness_DescriptorsAreReadAndReplaced :
    known.link.sending = none ∧ (127 : Byte).toNat = (127 : DescriptorId).val ∧ 128 ≤ (128 : Byte).toNat ∧
    Claims.blockInRange ⟨15, 255, 15, 4095, 63, 4095, 15, 2, 12⟩ ∧ Claims.blockInRange ⟨0, 1, 0, 0, 0, 0, 0, 12, 12⟩ ∧
    ¬ Claims.blockInRange ⟨16, 1, 0, 0, 0, 0, 0, 6, 10⟩ ∧ ¬ Claims.blockInRange ⟨0, 1, 0, 0, 0, 0, 0, 7, 6⟩ := by
  unfold Claims.blockInRange; decide +kernel

theorem witness_RequestsDecodeAsEncoded :
    (Instr.setParameter 1 24).wellFormed = true ∧ encodeRequest (.setParameter 1 24) = some (0x52, [1, 24]) :=
  ⟨rfl, rfl⟩

theorem witness_RequestRowIsItsCharacters :
    (Instr.setParameter 1 24).wellFormed = true ∧ encodeRequest (.setParameter 1 24) = some (0x52, [1, 24]) ∧
    (after (.addressCharacter 0) State.reset).link.receiver = .awaitCode := by decide +kernel

/-- The part after a reset with these straps, and a step from it that answers next. -/
theorem witness_StepKeepsRanges :
    (State.resetWith ⟨5, 1⟩).InRange ∧ step (State.resetWith ⟨5, 1⟩) = .next (State.resetWith ⟨5, 1⟩) :=
  ⟨resetWith_inRange _, rfl⟩
theorem witness_StepKeepsDirectoryAndCorrections :
    (State.resetWith ⟨5, 1⟩).RecordsAgree ∧ step (State.resetWith ⟨5, 1⟩) = .next (State.resetWith ⟨5, 1⟩) :=
  ⟨resetWith_recordsAgree _, rfl⟩
theorem witness_StepKeepsSchedule :
    (State.resetWith ⟨5, 1⟩).ScheduleAgrees ∧ step (State.resetWith ⟨5, 1⟩) = .next (State.resetWith ⟨5, 1⟩) :=
  ⟨resetWith_agrees _, rfl⟩
theorem witness_StepKeepsHolders :
    (State.resetWith ⟨5, 1⟩).RecordsAgree ∧ (State.resetWith ⟨5, 1⟩).HoldersAgree ∧
    step (State.resetWith ⟨5, 1⟩) = .next (State.resetWith ⟨5, 1⟩) :=
  ⟨resetWith_recordsAgree _, resetWith_holders _, rfl⟩

end Sys2Proof.Tests
end

section
/-! What every step keeps: the ranges, the directory with the corrections, and the holders. Each is a property that
every operation behind the commands keeps, so `KeptByOperations` carries it to a command and to a step. -/

namespace Sys2Proof.Machine

/-- Every operation behind the commands keeps the ranges. -/
theorem inRange_keptByOperations : KeptByOperations State.InRange where
  link _ _ h := { h with }
  request i _ h := requestEffect_inRange h i
  partReset x _ := { resetWith_inRange x with }
  tick _ h := { takeRaised_inRange h maxRaised with }
  sync s h := by
    unfold sync
    split
    · exact { h with }
    · exact h
  event x _ h := takeIfRaised_inRange h x
  detect c p _ h := detect_inRange h c p
  preambleDone c _ h := preambleDone_inRange h c
  symbol c x r _ h := symbol_inRange h c x r
  claim c t v _ h := claim_inRange h c t v
  burstEnd c p f _ h := burstEnd_inRange h c p f
  pass e _ h _ := completePass_inRange h e

/-- Every operation behind the commands keeps the directory and the corrections in agreement with the records. -/
theorem recordsAgree_keptByOperations : KeptByOperations State.RecordsAgree where
  link _ _ h := h.of_quiet (.of_stations rfl rfl rfl rfl)
  request i _ h := requestEffect_recordsAgree h i
  partReset x _ := (resetWith_recordsAgree x).of_quiet (.of_stations rfl rfl rfl rfl)
  tick s h := (h.of_quiet (takeRaised_quiet maxRaised s)).of_quiet (.of_stations rfl rfl rfl rfl)
  sync s h := by
    unfold sync
    split
    · exact h.of_quiet (.of_stations rfl rfl rfl rfl)
    · exact h
  event x s h := h.of_quiet (takeIfRaised_quiet x s)
  detect c p _ h := detect_agrees h c p
  preambleDone c s h := h.of_quiet (preambleDone_quiet c s)
  symbol c x r s h := h.of_quiet (symbol_quiet c x r s)
  claim c t v s h := h.of_quiet (claim_quiet c t v s)
  burstEnd c p f _ h := burstEnd_agrees h c p f
  pass e _ h _ := completePass_agrees h e

/-- The records agree with the directory and the corrections, and with their holders. The holders are kept only together
with the records: RETIRE and TAKE CORRECTION reach a record through the SID Map and the queue, which must not name a
FREE one. -/
structure State.PartAgrees (s : State) : Prop where
  records : s.RecordsAgree
  holders : s.HoldersAgree

/-- Every operation behind the commands keeps the holders in agreement, given the records agree. -/
theorem partAgrees_keptByOperations : KeptByOperations State.PartAgrees where
  link s x h := ⟨recordsAgree_keptByOperations.link s x h.records, h.holders.of_kept (kept_link s x)⟩
  request i _ h := ⟨requestEffect_recordsAgree h.records i, requestEffect_holders h.holders h.records i⟩
  partReset x s := ⟨recordsAgree_keptByOperations.partReset x s,
    (resetWith_holders x).of_kept (.of_stations rfl rfl rfl rfl rfl fun _ _ => ⟨rfl, rfl⟩)⟩
  tick s h := ⟨recordsAgree_keptByOperations.tick s h.records,
    (takeRaised_holders h.holders maxRaised).of_kept (kept_counter _ _)⟩
  sync s h := by
    refine ⟨recordsAgree_keptByOperations.sync s h.records, ?_⟩
    unfold sync
    split
    · exact h.holders.of_kept (.of_stations rfl rfl rfl rfl rfl fun _ _ => ⟨rfl, rfl⟩)
    · exact h.holders
  event x s h := ⟨recordsAgree_keptByOperations.event x s h.records, takeIfRaised_holders h.holders x⟩
  detect c p _ h := ⟨detect_agrees h.records c p, detect_holders h.holders c p⟩
  preambleDone c s h := ⟨recordsAgree_keptByOperations.preambleDone c s h.records, preambleDone_holders h.holders c⟩
  symbol c x r s h := ⟨recordsAgree_keptByOperations.symbol c x r s h.records, symbol_holders h.holders c x r⟩
  claim c t v s h := ⟨recordsAgree_keptByOperations.claim c t v s h.records, claim_holders h.holders c t v⟩
  burstEnd c p f _ h := ⟨burstEnd_agrees h.records c p f, burstEnd_holders h.holders c p f⟩
  pass e _ h he := ⟨completePass_agrees h.records e, completePass_holders h.holders he⟩

/-- Settles O56: every operation keeps the ranges, and the queue of commands has no part in them. -/
theorem stepKeepsRanges : Obligations.StepKeepsRanges := fun _ _ h hs =>
  inRange_keptByOperations.step (fun _ _ h => { h with }) h hs

/-- Settles O57: most operations are quiet for the records, the rest keep the agreement by their own lemmas. -/
theorem stepKeepsDirectoryAndCorrections : Obligations.StepKeepsDirectoryAndCorrections := fun _ _ h hs =>
  recordsAgree_keptByOperations.step (fun _ _ h => h.of_quiet (.of_stations rfl rfl rfl rfl)) h hs

/-- Settles O59: the holders are kept together with the records. -/
theorem stepKeepsHolders : Obligations.StepKeepsHolders := fun _ _ hr hh hs =>
  (partAgrees_keptByOperations.step
    (fun _ _ h => ⟨h.records.of_quiet (.of_stations rfl rfl rfl rfl),
      h.holders.of_kept (.of_stations rfl rfl rfl rfl rfl fun _ _ => ⟨rfl, rfl⟩)⟩) ⟨hr, hh⟩ hs).holders

/-! ### Part reset -/

/-- Settles O60: with no record served, nothing held and nothing waiting, every agreement holds at part reset. -/
theorem resetStateAgrees : Obligations.ResetStateAgrees :=
  ⟨resetWith_inRange _, resetWith_recordsAgree _, resetWith_agrees _, resetWith_holders _⟩

theorem notice_resetPart (straps : Straps) (s : State) : (resetPart straps s).notice = false := by
  simp [State.notice, resetPart, State.resetWith, AttentionCounts.some, State.someStarved, ChannelMap.reset, Link.reset,
    Link.flagPending]

/-- Settles O3: both commands run `resetPart`, and each block of the state it leaves reads its reset value. -/
theorem partResetGivesResetValues : Obligations.PartResetGivesResetValues := by
  intro straps c s hc
  refine ⟨resetPart straps s, by rcases hc with rfl | rfl <;> rfl, station_resetWith straps, sidEntry_resetWith straps,
    rfl, rfl, rfl, rfl, rfl, rfl,
    fun ch => ⟨point_resetWith straps ch, map_resetWith straps ch, emitted_resetWith straps ch,
      burst_resetWith straps ch⟩,
    engine_resetWith straps, rfl, descriptor_resetWith straps, rfl, rfl, rfl, rfl, rfl, notice_resetPart straps s⟩

end Sys2Proof.Machine
end

section
/-! The words of the statements against the model's operations: what `Claims.unbound`, `Claims.loaded`,
`Claims.released`, `Claims.ends` and the measurements of a burst say is what `unbind`, `loadedEngine`, `releaseEngine`
and the end of a burst do. -/

namespace Sys2Proof.Machine

/-! ### Attention leaves a record (R12, R15, R28) -/

/-- The kinds of a set that a list does not name, and those it names. -/
def Attention.without (a : Attention) (ks : List AttentionKind) : Attention :=
  ⟨a.staleNew && !ks.contains .staleNew, a.programmeDone && !ks.contains .programmeDone,
    a.saturated && !ks.contains .saturated⟩
def Attention.among (a : Attention) (ks : List AttentionKind) : Attention :=
  ⟨a.staleNew && ks.contains .staleNew, a.programmeDone && ks.contains .programmeDone,
    a.saturated && ks.contains .saturated⟩

theorem Attention.without_cons (a : Attention) (k : AttentionKind) (ks : List AttentionKind) :
    (a.put false k).without ks = a.without (k :: ks) := by
  cases k <;> simp [Attention.put, Attention.without]

theorem dropAttention_counts (i : Slot) (k : AttentionKind) (s : State) :
    (dropAttention i k s).counts = Claims.countsWithout s.counts ((s.station i).attention.among [k]) := by
  unfold dropAttention
  dsimp only
  split
  · next h =>
    cases k <;>
      simp_all [Attention.has, Attention.among, Claims.countsWithout, AttentionCounts.put, AttentionCounts.get]
  · next h => cases k <;> simp_all [Attention.has, Attention.among, Claims.countsWithout]

theorem countsWithout_cons (n : AttentionCounts) (a : Attention) (k : AttentionKind) (ks : List AttentionKind) :
    Claims.countsWithout (Claims.countsWithout n (a.among [k])) ((a.put false k).among ks) =
      Claims.countsWithout n (a.among (k :: ks)) := by
  cases k <;> simp [Attention.put, Attention.among, Claims.countsWithout]

/-- What stands after a kind has left a record. -/
theorem dropAttention_eq (i : Slot) (k : AttentionKind) (s : State) :
    dropAttention i k s = { s.setStation i { s.station i with attention := (s.station i).attention.put false k } with
      counts := Claims.countsWithout s.counts ((s.station i).attention.among [k]) } := by
  have hc := dropAttention_counts i k s
  have ha := dropAttention_at i k s
  unfold dropAttention at hc ha ⊢
  dsimp only at hc ha ⊢
  split
  · next h => rw [← hc, if_pos h]
  · next h =>
    rw [if_neg h] at hc ha
    rw [← hc, ← ha, setStation_self]

/-- What stands after the named kinds have left a record. -/
theorem dropKinds_eq (i : Slot) (ks : List AttentionKind) (s : State) :
    dropKinds i ks s = { s.setStation i { s.station i with attention := (s.station i).attention.without ks } with
      counts := Claims.countsWithout s.counts ((s.station i).attention.among ks) } := by
  induction ks generalizing s with
  | nil =>
    have ha : (s.station i).attention.without [] = (s.station i).attention := by simp [Attention.without]
    have hc : Claims.countsWithout s.counts ((s.station i).attention.among []) = s.counts := by
      simp [Attention.among, Claims.countsWithout]
    rw [ha, hc, setStation_self]
    rfl
  | cons k rest ih =>
    unfold dropKinds
    rw [ih, dropAttention_at, dropAttention_counts]
    dsimp only
    rw [countsWithout_cons, Attention.without_cons, dropAttention_eq]
    simp only [State.setStation, Vector.set_set]

/-! ### Unbinding (R15, R20) -/

/-- A record that becomes FREE takes its reset values, and the counts lose what its set held. -/
theorem becomeFree_eq (i : Slot) (s : State) : becomeFree i s =
    State.setStation { s with counts := Claims.countsWithout s.counts (s.station i).attention } i Station.reset := by
  have hall : (s.station i).attention.among [.staleNew, .programmeDone, .saturated] = (s.station i).attention := by
    simp [Attention.among]
  have hc : clearAttention i s = dropKinds i [.staleNew, .programmeDone, .saturated] s := rfl
  rw [becomeFree, hc, dropKinds_eq, hall]
  simp only [State.setStation, Vector.set_set]

theorem unbind_eq (i : Slot) (s : State) : unbind i s = Claims.unbound i s := by
  unfold unbind Claims.unbound
  rw [becomeFree_eq]

/-! ### Engines granted and released (R91, R93, R94) -/

theorem loadedEngine_eq (c : Channel) (i : Slot) (kind : GrantKind) (arrival : Capture) (s : State) :
    loadedEngine ⟨c, i, kind, arrival⟩ (s.station i) (s.descriptor (s.station i).vector) = Claims.loaded c i kind s := by
  cases hc : (s.station i).stepClass <;>
    simp [loadedEngine, Claims.loaded, Engine.reset, Descriptor.shiftFor, hc, Cplx.zero] <;> rfl

/-- A grant to a request whose burst stands at the channel. -/
theorem grantEngine_eq (e : EngineId) (q : EngineRequest) (s : State) : grantEngine e q s =
    (s.setEngine e (Claims.loaded q.channel q.slot q.kind s)).setBurst q.channel
      { s.burst q.channel with
        engine := .granted e,
        state := if (s.burst q.channel).state = .waiting then .live else (s.burst q.channel).state } := by
  rw [← loadedEngine_eq q.channel q.slot q.kind q.arrival]
  rfl

theorem releaseEngine_eq (e : EngineId) (s : State) : releaseEngine e s = Claims.released e s := by
  unfold Claims.released
  cases h : s.waiting with
  | nil => exact releaseEngine_idle e h
  | cons q rest =>
    rw [releaseEngine_granted e h, grantEngine_eq]
    rfl

theorem releaseItem_eq (x : EngineItem) (s : State) : releaseItem x s = Claims.itemReleased x s := by
  cases x with
  | granted e => exact releaseEngine_eq e s
  | requested => rfl
  | none => rfl

theorem dropUnicast_eq (c : Channel) (i : Slot) (b : Burst) (s : State) (h : b.engine = (s.burst c).engine) :
    dropUnicast c b i s = Claims.givenUp c i s := by
  unfold dropUnicast Claims.givenUp
  rw [unbind_eq, releaseItem_eq, h]
  rfl

/-! ### The trailer and the end of a burst (R69, R78) -/

/-- The burst on a channel keeps what its trailer is made of: whether its header was sent and its clip count. -/
structure SameTrailer (c : Channel) (s t : State) : Prop where
  headerSent : (t.burst c).headerSent = (s.burst c).headerSent
  clips : (t.burst c).clips = (s.burst c).clips

theorem SameTrailer.of_bursts {c : Channel} {s t : State} (h : t.bursts = s.bursts) : SameTrailer c s t := by
  constructor <;> simp only [State.burst, h]

theorem SameTrailer.trans {c : Channel} {s t u : State} (a : SameTrailer c s t) (b : SameTrailer c t u) :
    SameTrailer c s u :=
  ⟨b.headerSent.trans a.headerSent, b.clips.trans a.clips⟩

theorem releaseEngine_sameTrailer (c : Channel) (e : EngineId) (s : State) : SameTrailer c s (releaseEngine e s) := by
  cases h : s.waiting with
  | nil => rw [releaseEngine_idle e h]; exact .of_bursts rfl
  | cons q rest =>
    rw [releaseEngine_granted e h, grantEngine_eq]
    by_cases hc : q.channel = c
    · subst hc
      constructor <;> rw [burst_setBurst_same] <;> rfl
    · constructor <;> rw [burst_setBurst_ne _ _ _ _ hc] <;> rfl

theorem releaseItem_sameTrailer (c : Channel) (x : EngineItem) (s : State) : SameTrailer c s (releaseItem x s) := by
  cases x with
  | granted e => exact releaseEngine_sameTrailer c e s
  | requested => exact .of_bursts rfl
  | none => exact .of_bursts rfl

theorem unbind_sameTrailer (c : Channel) (i : Slot) (s : State) : SameTrailer c s (unbind i s) :=
  .of_bursts (unbind_frame i s).bursts

theorem complete_sameTrailer (c : Channel) (p : Report) (s : State) : SameTrailer c s (complete p s) :=
  .of_bursts (complete_frame p s).bursts

theorem dropUnicast_sameTrailer (c d : Channel) (b : Burst) (i : Slot) (s : State) :
    SameTrailer c s (dropUnicast d b i s) :=
  (SameTrailer.of_bursts (s := s) (t := withdrawRequest d s) rfl).trans
    ((releaseItem_sameTrailer c b.engine _).trans (unbind_sameTrailer c i _))

theorem missTruncated_bursts (w : Window) (i : Slot) (s : State) : (missTruncated w i s).bursts = s.bursts := by
  unfold missTruncated
  split
  · exact (countMiss_frame i s).bursts
  · rfl

theorem endPlain_sameTrailer (c : Channel) (b : Burst) (i : Slot) (s : State) : SameTrailer c s (endPlain b i s) :=
  (releaseItem_sameTrailer c b.engine s).trans (unbind_sameTrailer c i _)

theorem endMaint_sameTrailer (c : Channel) (b : Burst) (i : Slot) (errors : Offsets) (s : State) :
    SameTrailer c s (endMaint b i errors s) := by
  have released (e : EngineId) (p : Report) : SameTrailer c s (releaseEngine e (complete p s)) :=
    (complete_sameTrailer c p s).trans (releaseEngine_sameTrailer c e _)
  unfold endMaint
  split
  · unfold endMaintOnEngine
    dsimp only
    split
    · split
      · exact .of_bursts rfl
      · exact released _ _
    · exact released _ _
  · exact complete_sameTrailer c _ s

theorem endRecord_sameTrailer (c : Channel) (b : Burst) (w : Window) (i : Slot) (power frequency : Int) (s : State) :
    SameTrailer c s (endRecord b w i power frequency s) := by
  have written (o : Offsets) : SameTrailer c s (writeMeasured i w.grant o s) :=
    .of_bursts (writeMeasured_frame i w.grant o s).bursts
  unfold endRecord
  dsimp only
  split
  · exact endPlain_sameTrailer c b i s
  · split
    · split
      · exact (SameTrailer.of_bursts (countMiss_frame i s).bursts).trans (endPlain_sameTrailer c b i _)
      · exact endPlain_sameTrailer c b i s
    · split
      · exact (written _).trans (endMaint_sameTrailer c b i _ _)
      · exact (written _).trans (endPlain_sameTrailer c b i _)

/-- The trailer of a burst, made of the items it had before its record was handed on. -/
theorem emitTrailer_eq (c : Channel) (o : BurstOutcome) {s t : State} (h : SameTrailer c s t) :
    emitTrailer c (s.burst c) o t = Claims.trailer c o t := by
  unfold emitTrailer Claims.trailer
  rw [h.headerSent, h.clips]

/-- The trailer goes out and the burst items are cleared. -/
theorem ended_eq (c : Channel) (o : BurstOutcome) {s t : State} (h : SameTrailer c s t) :
    (emitTrailer c (s.burst c) o t).setBurst c ((emitTrailer c (s.burst c) o t).burst c).ended =
      Claims.ends c o t := by
  have hb : (Claims.trailer c o t).burst c = t.burst c := by
    unfold Claims.trailer
    split <;> rfl
  rw [emitTrailer_eq c o h, hb]
  rfl

/-- The END of a unicast burst: its record and engine are handed on, and the burst ends (R74, R78). -/
theorem endUnicast_eq (c : Channel) (w : Window) (i : Slot) (power frequency : Int) (s : State) :
    endUnicast c w i power frequency s = Claims.ends c (s.burst c).outcome
      (endRecord (s.burst c) w i power frequency (endGrace c s)) :=
  ended_eq c _ ((SameTrailer.of_bursts (s := s) (t := endGrace c s) rfl).trans
    (endRecord_sameTrailer c _ w i power frequency _))

/-! ### Measurements (R43, R74) -/

theorem clamp_eq_forced {lo hi : Int} (h : lo ≤ hi) (x : Int) : clamp lo hi x = Claims.forced lo hi x := by
  unfold clamp Claims.forced
  split
  · omega
  · split <;> omega

theorem clampTiming_eq (x : Int) : clampTiming x = Claims.forcedTiming x := clamp_eq_forced (by decide) x
theorem clampPower_eq (x : Int) : clampPower x = Claims.forcedPower x := clamp_eq_forced (by decide) x
theorem clampFrequency_eq (x : Int) : clampFrequency x = Claims.forcedFrequency x := clamp_eq_forced (by decide) x

theorem measure_eq {b : Burst} {capture : Capture} (h : b.capture = some capture) (w : Window) (power frequency : Int) :
    measure b w power frequency = Claims.measured capture w.start power frequency := by
  have ha : capture.arrival = BitVec.ofNat 38 (capture.tick.toNat * 64 + capture.phase.toNat) := by
    unfold Capture.arrival; bv_omega
  have hs : w.start.setWidth 38 * 64 = BitVec.ofNat 38 (w.start.toNat * 64) := by bv_omega
  unfold measure Claims.measured timingError
  rw [h, ← ha, ← hs, ← clampTiming_eq, clampPower_eq, clampFrequency_eq]

/-- The record as a NORMAL END writes it (R75, R169). -/
theorem writeMeasured_eq (i : Slot) (kind : GrantKind) (errors : Offsets) (s : State) :
    writeMeasured i kind errors s = s.setStation i (Claims.afterNormalEnd (s.station i) kind errors) := by
  unfold writeMeasured reloadMisses Claims.afterNormalEnd
  cases hc : (s.station i).stepClass <;> simp [StepClass.revived, hc]

end Sys2Proof.Machine
end

section
/-! Bursts that end: at grace expiry, at END and at CHANNEL OFF. -/

namespace Sys2Proof.Machine

/-! ### Grace expiry (R39, R82) -/

theorem missTruncated_eq (w : Window) (i : Slot) (s : State) : missTruncated w i s =
    if w.grant = .maint ∧ (s.station i).state ≠ .retiring then countMiss i s else s := by
  unfold missTruncated
  congr 1
  simp

/-- A burst in grace is truncated, once its grace expiry point is gone. -/
theorem truncate_endGrace (c : Channel) {w : Window} {s : State} (hs : (s.burst c).state = .grace)
    (hw : (s.burst c).window = some w) : truncate c (endGrace c s) = Claims.truncated c w s := by
  have gone : endGrace c (endGrace c s) = endGrace c s := by
    simp [endGrace]
  have plain := ended_eq c .truncated (SameTrailer.of_bursts (s := s) (t := endGrace c s) rfl)
  unfold truncate Claims.truncated
  dsimp only
  rw [show (endGrace c s).burst c = s.burst c from rfl, hs, hw, gone]
  dsimp only
  cases hk : w.kind with
  | contention => exact plain
  | void => exact plain
  | unicast =>
    cases hi : (s.burst c).slot with
    | none => exact plain
    | some i =>
      dsimp only
      have missed : (missTruncated w i (endGrace c s)).bursts = s.bursts := missTruncated_bursts w i _
      have dropped := (SameTrailer.of_bursts missed).trans (dropUnicast_sameTrailer c c (s.burst c) i _)
      have item : (s.burst c).engine = ((missTruncated w i (endGrace c s)).burst c).engine := by
        simp only [State.burst, missed]
      rw [ended_eq c .truncated dropped, dropUnicast_eq c i _ _ item, missTruncated_eq]
      rfl

/-- Settles O10: the event is raised, and taking it truncates the burst. -/
theorem graceExpiryTruncates : Obligations.GraceExpiryTruncates := by
  intro c s w hp hs hw
  have taken : exec (.graceExpiry c) s = .next (Claims.truncated c w s) := by
    have raised : TimeEvent.raised s (.graceExpiry c) = true := by simp [TimeEvent.raised, reached, hp]
    rw [← truncate_endGrace c hs hw]
    exact congrArg Host.Outcome.next (if_pos raised)
  refine ⟨taken, fun hk => ?_⟩
  rw [taken, Claims.truncated, hk]

/-! ### END (R74 to R78) -/

theorem unicastInProgress_of {b : Burst} {w : Window} (hw : b.window = some w) (hk : w.kind = .unicast)
    (hs : b.state.inProgress = true) : unicastInProgress b = some w := by
  simp [unicastInProgress, hw, hk, hs]

theorem contentionInProgress_none {b : Burst} {w : Window} (hw : b.window = some w) (hk : w.kind ≠ .contention) :
    contentionInProgress b = none := by
  simp [contentionInProgress, hw, hk]

theorem SequencerState.inProgress_iff (x : SequencerState) :
    x.inProgress = true ↔ x = .waiting ∨ x = .live ∨ x = .grace := by
  cases x <;> simp [SequencerState.inProgress]

/-- An END of a unicast burst whose mode is decided (R74). -/
theorem burstEnd_ending {c : Channel} {w : Window} {i : Slot} {s : State} (h : Claims.ending c w i s)
    (power frequency : Int) : exec (.burstEnd c power frequency) s = .next (Claims.ends c (s.burst c).outcome
      (endRecord (s.burst c) w i power frequency (endGrace c s))) := by
  have progress : (s.burst c).state.inProgress = true :=
    (SequencerState.inProgress_iff _).mpr (.inr h.state)
  have noContention := contentionInProgress_none h.window (by rw [h.kind]; decide)
  rw [← endUnicast_eq]
  refine congrArg Host.Outcome.next ?_
  unfold burstEnd
  rw [noContention, unicastInProgress_of h.window h.kind progress, h.slot]
  dsimp only
  rw [if_neg h.mode]

theorem endPlain_eq (b : Burst) (i : Slot) (s : State) :
    endPlain b i s = Claims.unbound i (Claims.itemReleased b.engine s) := by
  rw [endPlain, unbind_eq, releaseItem_eq]

/-- Settles O25: both ends hand the record on by `endPlain`, the DISTURBED one after a miss of a MAINT burst. -/
theorem disturbedAndRetiringEndsWriteNoMeasurement : Obligations.DisturbedAndRetiringEndsWriteNoMeasurement := by
  refine ⟨fun c power frequency s w i h hd hr => ?_, fun c power frequency s w i h hr => ?_⟩
  · have kept : ((endGrace c s).station i).state ≠ .retiring := hr
    rw [burstEnd_ending h, endRecord, if_neg kept, if_pos hd, endPlain_eq, Burst.outcome, if_pos hd]
    rfl
  · have retiring : ((endGrace c s).station i).state = .retiring := hr
    rw [burstEnd_ending h, endRecord, if_pos retiring, endPlain_eq]
    rfl

/-- A NORMAL END of a MAINT burst on a record that is not RETIRING: the record is written and then handed on. -/
theorem endRecord_normalMaint {c : Channel} {w : Window} {i : Slot} {capture : Capture} {s : State}
    (hg : w.grant = .maint) (hd : (s.burst c).disturbed = false) (hc : (s.burst c).capture = some capture)
    (hr : (s.station i).state ≠ .retiring) (power frequency : Int) :
    endRecord (s.burst c) w i power frequency (endGrace c s) =
      endMaint (s.burst c) i (Claims.measured capture w.start power frequency)
        (Claims.normalEnd c i .maint (Claims.measured capture w.start power frequency) s) := by
  have kept : ((endGrace c s).station i).state ≠ .retiring := hr
  have clean : ¬ (s.burst c).disturbed = true := by simp [hd]
  rw [endRecord, if_neg kept, if_neg clean, if_pos hg, measure_eq hc, writeMeasured_eq, hg]
  rfl

/-- Settles O26: with passes to make and nobody waiting, the engine is not released but begins to settle. -/
theorem maintEndStartsSettling : Obligations.MaintEndStartsSettling := by
  intro c power frequency s w i capture e h hg hd hc hr he ha hp hwait errors
  let written := Claims.normalEnd c i .maint errors s
  have settles : endMaint (s.burst c) i errors written = startSettling e i errors written := by
    have adapts : ((written.engine e).armed && decide (0 < (written.engine e).passes)) = true := by
      simp [written, Claims.normalEnd, ha, hp]
    have alone : written.waiting.isEmpty = true := by simp [written, Claims.normalEnd, hwait]
    rw [endMaint, he]
    dsimp only
    rw [endMaintOnEngine, if_pos adapts, if_pos alone]
  have normal : (s.burst c).outcome = .normal := by simp [Burst.outcome, hd]
  rw [burstEnd_ending h, endRecord_normalMaint hg hd hc hr, settles, normal]
  simp only [startSettling, written, Claims.normalEnd, station_setStation_same, setEngine_setStation,
    setStation_setStation]
  rfl

/-! ### CHANNEL OFF (R57, R84) -/

theorem exec_channelOff {ch : Byte} {c : Channel} {s : State} (hs : s.link.sending = none) (hc : ch.toNat = c.val) :
    exec (.channelOff ch) s = .next ((resetChannel c s).answered .ok []) := by
  rw [exec_request _ (by simp [encodeRequest]), takeRequest_idle _ hs]
  simp [requestEffect, channelOffRequest, withChannel, readChannel_of hc, accept]

/-- With no unicast burst in progress nothing is given up. -/
theorem abandon_idle {c : Channel} {s : State} (h : ∀ w, (s.burst c).window = some w → w.kind ≠ .unicast ∨
    (s.burst c).state = .closed ∨ (s.burst c).state = .opened) : abandon c s = s.setBurst c Burst.reset := by
  have idle : unicastInProgress (s.burst c) = none := by
    unfold unicastInProgress
    split
    · next w hw => rcases h w hw with hk | hs | hs <;> simp [*, SequencerState.inProgress]
    · rfl
  unfold abandon
  dsimp only
  rw [idle]

/-- A unicast burst in progress gives its record and its engine up, and its trailer goes out ABANDONED. -/
theorem abandon_unicast {c : Channel} {w : Window} {i : Slot} {s : State}
    (hu : unicastInProgress (s.burst c) = some w) (hi : (s.burst c).slot = some i) :
    abandon c s = (Claims.trailer c .abandoned (Claims.givenUp c i s)).setBurst c Burst.reset := by
  have trailer := emitTrailer_eq c .abandoned (dropUnicast_sameTrailer c c (s.burst c) i s)
  unfold abandon
  dsimp only
  rw [hu, hi]
  dsimp only
  rw [trailer, dropUnicast_eq c i _ s rfl]

/-- Settles O52: the channel reset is the abandonment and three resets of different blocks. -/
theorem channelOffResetsChannel : Obligations.ChannelOffResetsChannel := by
  intro ch c s hs hc off
  have reset : resetChannel c s = ((abandon c s).setMap c .reset).setPoint c .reset := rfl
  refine ⟨fun idle => ?_, fun w i hw hk hst hi => ?_⟩
  · rw [exec_channelOff hs hc, reset, abandon_idle idle]
    rfl
  · have busy := unicastInProgress_of hw hk ((SequencerState.inProgress_iff _).mpr hst)
    rw [exec_channelOff hs hc, reset, abandon_unicast busy hi]
    rfl

end Sys2Proof.Machine
end

section
/-! DETECT on a unicast window: the record is bound, and an engine requested and granted (R17, R18, R64, R88). -/

namespace Sys2Proof.Machine

theorem RecordState.served_iff (x : RecordState) : x.served = true ↔ x = .training ∨ x = .locked ∨ x = .stale := by
  cases x <;> simp [RecordState.served]

theorem idleEngine_lowest {s : State} {e : EngineId} (he : (s.engine e).state = .idle)
    (lower : ∀ d, d < e → (s.engine d).state ≠ .idle) : idleEngine s = some e := by
  unfold idleEngine
  rw [List.find?_eq_some_iff_getElem]
  refine ⟨by simpa using he, e, by simp, by simp, fun j hj => ?_⟩
  simpa using lower ⟨j, by omega⟩ hj

/-- An engine request is granted the lowest IDLE engine (R88). -/
theorem requestEngine_lowest (q : EngineRequest) {s : State} {e : EngineId} (he : (s.engine e).state = .idle)
    (lower : ∀ d, d < e → (s.engine d).state ≠ .idle) : requestEngine q s = grantEngine e q s := by
  rw [requestEngine, idleEngine_lowest he lower]

/-- A DETECT that may bind the record begins its unicast burst. -/
theorem detect_bindable {c : Channel} {w : Window} {i : Slot} {s : State} (h : Claims.bindable c w i s)
    (phase : BitVec 6) : exec (.detect c phase) s = .next (beginUnicast c w i phase s) := by
  have inside : closeReached s c = false := by simp [closeReached, h.close]
  have station : stationMatches s i w.sid c = true := by
    simp [stationMatches, (RecordState.served_iff _).mpr h.served, h.sid, h.channel]
  have opened : detect c phase s = detectOpen c w phase s := by
    unfold detect detectByState
    simp only [inside, h.state, h.window, Bool.false_eq_true, if_false]
  refine congrArg Host.Outcome.next (opened.trans ?_)
  simp only [detectOpen, h.kind, h.slot, h.used, station, Bool.not_false, Bool.and_self, if_true]

/-- The part in the state `u` with the record bound, the burst begun, and engine `e` granted and loaded. -/
def bursting (c : Channel) (w : Window) (i : Slot) (capture : Capture) (e : EngineId) (u : State) : State :=
  ((u.setStation i { u.station i with binding := .burst c }).setBurst c
    (Claims.begun w i capture (.granted e) .live)).setEngine e (Claims.loaded c i w.grant u)

/-- The request of a burst just begun is granted the lowest IDLE engine, which loads the record as it is bound. -/
theorem requestEngine_idle {c : Channel} {w : Window} {i : Slot} {e : EngineId} {u : State}
    (hw : (u.burst c).window = some w) (he : (u.engine e).state = .idle)
    (lower : ∀ d, d < e → (u.engine d).state ≠ .idle) (capture : Capture) :
    requestEngine ⟨c, i, w.grant, capture⟩
      ((u.setStation i { u.station i with binding := .burst c }).setBurst c
        { (u.burst c).started capture (some i) with engine := .requested, state := .waiting }) =
      bursting c w i capture e u := by
  have loaded (b : Burst) : Claims.loaded c i w.grant
      ((u.setStation i { u.station i with binding := .burst c }).setBurst c b) = Claims.loaded c i w.grant u := by
    simp [Claims.loaded]
  rw [requestEngine_lowest (e := e) _ (by exact he) (by exact lower), grantEngine_eq]
  dsimp only
  rw [loaded, burst_setBurst_same]
  simp only [setEngine_setBurst, setBurst_setBurst, bursting, Burst.started, Claims.begun, hw, if_true]

/-- Settles O14: nobody holds the record, so the burst begins on it at once. -/
theorem detectBindsAndLoadsIdleEngine : Obligations.DetectBindsAndLoadsIdleEngine := by
  intro c phase s w i e h unbound idle lower
  rw [detect_bindable h, beginUnicast, unbound]
  exact congrArg Host.Outcome.next (requestEngine_idle h.window idle lower ⟨s.counter, phase⟩)

/-- With no request waiting, the settling that held the record is completed and its engine becomes IDLE (R18, R106). -/
theorem preemptRecord_eq {e : EngineId} {i : Slot} {errors : Offsets} {s : State} (hw : s.waiting = [])
    (hi : (s.engine e).slot = some i) (ho : (s.engine e).errors = some errors) :
    preemptRecord e s = (complete (settlingReport (s.engine e) i errors false) s).setEngine e Engine.reset := by
  have completed : completeSettling e false s = complete (settlingReport (s.engine e) i errors false) s := by
    rw [completeSettling, hi, ho]
  rw [preemptRecord, completed, releaseEngine_idle e ((complete_frame _ s).waiting.trans hw)]

/-- Settles O16: the settling's completion leaves engines and bursts alone, so the burst begins as on an unbound
record, the freed engine being IDLE too. -/
theorem detectEndsItsRecordsSettling : Obligations.DetectEndsItsRecordsSettling := by
  intro c phase s w i e d errors h held alone hi ho hd lower u
  have frame : CompletionFrame s u := complete_frame _ s
  have freed : preemptRecord e s = u.setEngine e Engine.reset := preemptRecord_eq alone hi ho
  have window : ((u.setEngine e Engine.reset).burst c).window = some w := by
    simpa [State.burst, frame.bursts] using h.window
  have engine (x : EngineId) (hx : x ≠ e) : (u.setEngine e Engine.reset).engine x = s.engine x := by
    rw [engine_setEngine_ne _ _ _ _ hx.symm, State.engine, frame.engines, State.engine]
  have idle : ((u.setEngine e Engine.reset).engine d).state = .idle := by
    by_cases hde : d = e
    · rw [hde, engine_setEngine_same]; rfl
    · rw [engine d hde]; exact hd.resolve_left hde
  have busy : ∀ x, x < d → ((u.setEngine e Engine.reset).engine x).state ≠ .idle := fun x hx => by
    rw [engine x (lower x hx).1]; exact (lower x hx).2
  rw [detect_bindable h, beginUnicast, held]
  dsimp only
  rw [freed]
  exact congrArg Host.Outcome.next (requestEngine_idle window idle busy ⟨s.counter, phase⟩)

end Sys2Proof.Machine
end

section
/-! Requests on station records: what names a record or a channel, the record block, SCAN and ACK ATTENTION. -/

namespace Sys2Proof.Machine

/-! ### A request's answer (R184, R185, R188) -/

/-- With no response being sent, a request that is refused leaves the part as it was but for the link. -/
theorem exec_refused {x : Instr} {s : State} {status : Status} (hr : encodeRequest x ≠ none)
    (hs : s.link.sending = none) (h : requestEffect x s = refuse status s) :
    exec x s = .next (s.answered status []) := by
  rw [exec_request x hr, takeRequest_idle _ hs, h]
  rfl

/-- With no response being sent, a request that is accepted leaves the state its rule gives, and answers OK. -/
theorem exec_accepted {x : Instr} {s t : State} {body : List Byte} (hr : encodeRequest x ≠ none)
    (hs : s.link.sending = none) (h : requestEffect x s = accept body t) :
    exec x s = .next (t.answered .ok body) := by
  rw [exec_request x hr, takeRequest_idle _ hs, h]
  rfl

/-! ### What names no record and no channel (R14, R196) -/

theorem withSid_named {s : State} {v : BitVec 16} {i : Slot} (h : Claims.sidNames s v i)
    (act : Slot → State → Reply × State) : withSid v act s = act i s := by
  obtain ⟨low, high, entry⟩ := h
  simp only [withSid, readSid_of low high, entry]

/-- The two refusals of a SID, as the request's own match makes them. -/
theorem sidRefusal_cases {s : State} {v : BitVec 16} {status : Status} (h : Claims.sidRefusal s v status) :
    (readSid v = none ∧ status = .range) ∨
      ∃ sid, readSid v = some sid ∧ s.sidEntry sid = none ∧ status = .notFound := by
  rcases h with ⟨out, hs⟩ | ⟨low, high, empty, hs⟩
  · exact .inl ⟨readSid_none out, hs⟩
  · exact .inr ⟨_, readSid_of low high, empty, hs⟩

theorem withSid_refused {s : State} {v : BitVec 16} {status : Status} (h : Claims.sidRefusal s v status)
    (act : Slot → State → Reply × State) : withSid v act s = refuse status s := by
  rcases sidRefusal_cases h with ⟨hv, rfl⟩ | ⟨sid, hv, he, rfl⟩
  · simp only [withSid, hv]
  · simp only [withSid, hv, he]

theorem retireRequest_refused {s : State} {v : BitVec 16} {status : Status} (h : Claims.sidRefusal s v status) :
    retireRequest v s = refuse status s := by
  rcases sidRefusal_cases h with ⟨hv, rfl⟩ | ⟨sid, hv, he, rfl⟩
  · simp only [retireRequest, hv]
  · simp only [retireRequest, hv, he]

theorem ackAttention_withSid (v : BitVec 16) {ks : List Byte} (h : ks.length ≤ 3) (s : State) :
    ackAttentionRequest v ks s = withSid v (ackAttentionAt ks) s := by
  simp [ackAttentionRequest, kindsSpelled, h]

/-- A list of settings names fields of R199's table only. -/
theorem all_known_iff (l : List Setting) :
    l.all Setting.known = true ↔ ∀ n rest, Setting.unknown n rest ∉ l := by
  rw [List.all_eq_true]
  constructor
  · intro known n rest mem
    exact Bool.false_ne_true (known _ mem)
  · intro named x mem
    cases x with
    | unknown n rest => exact absurd mem (named n rest)
    | _ => rfl

theorem writeStation_withSid (v : BitVec 16) {l : List Setting} (hl : settingsSpelled l = true)
    (hk : ∀ n rest, Setting.unknown n rest ∉ l) (s : State) :
    writeStationRequest v l s = withSid v (writeStationAt l) s := by
  rw [writeStationRequest, if_pos hl, if_pos ((all_known_iff l).mpr hk)]

theorem writeStation_unknown (v : BitVec 16) {l : List Setting} (hl : settingsSpelled l = true) {n : Byte}
    {rest : List Byte} (h : Setting.unknown n rest ∈ l) (s : State) : writeStationRequest v l s = refuse .range s := by
  rw [writeStationRequest, if_pos hl, if_neg fun known => (all_known_iff l).mp known n rest h]

theorem withChannel_refused {v : Byte} (h : 4 ≤ v.toNat) (act : Channel → State → Reply × State) (s : State) :
    withChannel v act s = refuse .range s := by
  simp only [withChannel, readChannel_none h]

/-- Settles O38: every request that names a SID reads it by the same two checks, and every one that names a channel
reads that first. -/
theorem unknownSidOrChannelIsRefused : Obligations.UnknownSidOrChannelIsRefused := by
  refine ⟨fun v status s hs h => ⟨?lookup, ?write, ?retire, ?ack, ?arm, ?disarm⟩, ?unknown, ?channel⟩
  case lookup => exact exec_refused (Option.some_ne_none _) hs (withSid_refused h _)
  case write =>
    intro l hl hk
    exact exec_refused (Option.some_ne_none _) hs ((writeStation_withSid v hl hk s).trans (withSid_refused h _))
  case retire => exact exec_refused (Option.some_ne_none _) hs (retireRequest_refused h)
  case ack =>
    intro ks hk
    exact exec_refused (Option.some_ne_none _) hs ((ackAttention_withSid v hk s).trans (withSid_refused h _))
  case arm =>
    exact fun x => exec_refused (Option.some_ne_none _) hs (by rw [requestEffect, armProgrammeRequest, withSid_refused h])
  case disarm =>
    exact exec_refused (Option.some_ne_none _) hs (by rw [requestEffect, disarmProgrammeRequest, withSid_refused h])
  case unknown =>
    intro v l n rest s hs hl hu
    exact exec_refused (Option.some_ne_none _) hs (writeStation_unknown v hl hu s)
  case channel =>
    intro ch s hs hc
    exact ⟨exec_refused (Option.some_ne_none _) hs (by rw [requestEffect, mapCloseRequest, withChannel_refused hc]),
      exec_refused (Option.some_ne_none _) hs (by rw [requestEffect, channelOnRequest, withChannel_refused hc]),
      exec_refused (Option.some_ne_none _) hs (by rw [requestEffect, channelOffRequest, withChannel_refused hc])⟩

/-! ### ACK ATTENTION (R28) -/

theorem attentionByte_eq (a : Attention) : attentionByte a = Claims.attentionCode a := by
  obtain ⟨x, y, z⟩ := a
  cases x <;> cases y <;> cases z <;> rfl

/-- The kinds that a list of codes names. -/
structure NamedKinds (codes : List Byte) (ks : List AttentionKind) : Prop where
  staleNew : ks.contains .staleNew = codes.contains 1
  programmeDone : ks.contains .programmeDone = codes.contains 2
  saturated : ks.contains .saturated = codes.contains 3

theorem readAttentionKinds_of {codes : List Byte} (h : ∀ k ∈ codes, k = 1 ∨ k = 2 ∨ k = 3) :
    ∃ ks, readAttentionKinds codes = some ks ∧ NamedKinds codes ks := by
  induction codes with
  | nil => exact ⟨[], rfl, rfl, rfl, rfl⟩
  | cons k rest ih =>
    obtain ⟨ks, hks, named⟩ := ih fun x hx => h x (List.mem_cons_of_mem k hx)
    obtain ⟨h1, h2, h3⟩ := named
    rcases h k List.mem_cons_self with rfl | rfl | rfl
    · exact ⟨.staleNew :: ks, by simp [readAttentionKinds, readAttentionKind, hks], by simp, by simpa using h2,
        by simpa using h3⟩
    · exact ⟨.programmeDone :: ks, by simp [readAttentionKinds, readAttentionKind, hks], by simpa using h1, by simp,
        by simpa using h3⟩
    · exact ⟨.saturated :: ks, by simp [readAttentionKinds, readAttentionKind, hks], by simpa using h1,
        by simpa using h2, by simp⟩

theorem readAttentionKind_none {k : Byte} (h : k = 0 ∨ 4 ≤ k.toNat) : readAttentionKind k = none := by
  have out : k ≠ 1 ∧ k ≠ 2 ∧ k ≠ 3 := by
    refine ⟨?_, ?_, ?_⟩ <;> rintro rfl <;> revert h <;> decide
  obtain ⟨h1, h2, h3⟩ := out
  rw [readAttentionKind, if_neg h1, if_neg h2, if_neg h3]

theorem readAttentionKinds_none {codes : List Byte} (h : ∃ k ∈ codes, k = 0 ∨ 4 ≤ k.toNat) :
    readAttentionKinds codes = none := by
  induction codes with
  | nil => simp at h
  | cons k rest ih =>
    rw [readAttentionKinds]
    rcases List.exists_mem_cons_iff _ _ _ |>.mp h with hk | hrest
    · rw [readAttentionKind_none hk]
    · rw [ih hrest]
      cases readAttentionKind k <;> rfl

theorem NamedKinds.without {codes : List Byte} {ks : List AttentionKind} (h : NamedKinds codes ks) (a : Attention) :
    a.without ks = ⟨a.staleNew && !codes.contains 1, a.programmeDone && !codes.contains 2,
      a.saturated && !codes.contains 3⟩ := by
  rw [Attention.without, h.staleNew, h.programmeDone, h.saturated]

theorem NamedKinds.among {codes : List Byte} {ks : List AttentionKind} (h : NamedKinds codes ks) (a : Attention) :
    a.among ks = ⟨a.staleNew && codes.contains 1, a.programmeDone && codes.contains 2,
      a.saturated && codes.contains 3⟩ := by
  rw [Attention.among, h.staleNew, h.programmeDone, h.saturated]

/-- Settles O44: the codes name kinds, `dropKinds` removes them, and the byte answered is the set left. -/
theorem ackAttentionRemovesKinds : Obligations.AckAttentionRemovesKinds := by
  refine ⟨fun v ks status s hs h hk => ?_, fun v ks i s hs hv hk => ⟨fun codes => ?_, fun out => ?_⟩⟩
  · exact exec_refused (Option.some_ne_none _) hs ((ackAttention_withSid v hk s).trans (withSid_refused h _))
  · obtain ⟨kinds, read, named⟩ := readAttentionKinds_of codes
    refine exec_accepted (Option.some_ne_none _) hs ?_
    rw [requestEffect, ackAttention_withSid v hk, withSid_named hv, ackAttentionAt, read]
    dsimp only
    rw [dropKinds_eq, named.without, named.among, attentionByte_eq, station_with_counts, station_setStation_same]
  · refine exec_refused (Option.some_ne_none _) hs ?_
    rw [requestEffect, ackAttention_withSid v hk, withSid_named hv, ackAttentionAt, readAttentionKinds_none out]

/-! ### The record block (R196 to R198) -/

/-- The eight bits of a value from bit `a` up: the value shifted down by `a`, as a byte. -/
theorem extract_ofInt (w a : Nat) (h : a + 8 ≤ w) (x : Int) :
    (BitVec.ofInt w x).extractLsb' a 8 = BitVec.ofInt 8 (x / 2 ^ a) := by
  apply BitVec.eq_of_toNat_eq
  simp only [BitVec.toNat_ofInt, BitVec.extractLsb'_toNat, Nat.shiftRight_eq_div_pow]
  zify
  rw [Int.toNat_of_nonneg (Int.emod_nonneg _ (by positivity)), Int.toNat_of_nonneg (Int.emod_nonneg _ (by positivity))]
  obtain ⟨k, rfl⟩ := Nat.exists_eq_add_of_le h
  have split : (2 : Int) ^ (a + 8 + k) = 2 ^ a * (256 * 2 ^ k) := by ring
  have shifted : x / 2 ^ a = x % 2 ^ (a + 8 + k) / 2 ^ a + 256 * (2 ^ k * (x / 2 ^ (a + 8 + k))) := by
    conv_lhs => rw [← Int.emod_add_mul_ediv x (2 ^ (a + 8 + k))]
    rw [split, mul_assoc, Int.add_mul_ediv_left _ _ (by positivity), mul_assoc]
  push_cast
  rw [shifted, Int.add_mul_emod_self_left]

theorem signed16_eq (x : Int) : signed16 x = Claims.two x := by
  simp [signed16, bytes16, Claims.two, extract_ofInt]

theorem signed24_eq (x : Int) : signed24 x = Claims.three x := by
  simp [signed24, bytes24, Claims.three, extract_ofInt]

theorem unsigned16_eq (n : Nat) : unsigned16 n = Claims.two n := by
  rw [← signed16_eq, signed16, unsigned16, BitVec.ofInt_natCast]

theorem bytes16_eq (v : BitVec 16) : bytes16 v = Claims.two v.toInt := by
  rw [← signed16_eq, signed16, BitVec.ofInt_toInt]

theorem offsetBytes_eq (o : Offsets) : offsetBytes o = Claims.offsetField o := by
  rw [offsetBytes, Claims.offsetField, signed24_eq, signed16_eq, signed16_eq]

theorem encodeCoefficients_eq (l : List Cplx) :
    encodeCoefficients l = l.flatMap fun x => Claims.two x.re.toInt ++ Claims.two x.im.toInt := by
  induction l with
  | nil => rfl
  | cons x rest ih => rw [encodeCoefficients, ih, bytes16_eq, bytes16_eq, List.flatMap_cons]

theorem coefficientBytes_eq (f : Option CoefficientSet) : coefficientBytes f = Claims.setField f := by
  cases f with
  | none => rfl
  | some f =>
    obtain ⟨count, main, taps⟩ := f
    cases count <;> simp [coefficientBytes, Claims.setField, encodeCoefficients_eq, tapCode, byteOfNat]

theorem lastMeasuredBytes_eq (m : Option Measured) : lastMeasuredBytes m = match m with
    | none => List.replicate 9 0
    | some m => 1 :: (match m.kind with | .data => 0 | .maint => 1 | .initial => 2 : Byte) ::
        Claims.offsetField m.errors := by
  cases m with
  | none => rfl
  | some m =>
    obtain ⟨kind, errors⟩ := m
    cases kind <;> simp [lastMeasuredBytes, kindByte, offsetBytes_eq]

theorem correctionByte_eq (c : CorrectionState) (flag : Bool) : correctionByte c flag =
    BitVec.ofNat 8 ((match c with | .none => 0 | .held => 1 | .queued => 2) + (if flag then 128 else 0)) := by
  cases c <;> cases flag <;> rfl

theorem verdictByte_eq (v : Verdict) : verdictByte v = Claims.verdictCode v := by cases v <;> rfl

theorem stepClassByte_eq (x : StepClass) : stepClassByte x = if x = .fine then 1 else 0 := by cases x <;> rfl

theorem bindingByte_eq (b : Binding) : bindingByte b = match b with
    | .none => 0
    | .burst c => BitVec.ofNat 8 (16 + c.val)
    | .settling e => BitVec.ofNat 8 (32 + e.val) := by
  cases b <;> rfl

theorem recordBlock_eq (i : Slot) (r : Station) : recordBlock i r = Claims.recordField i r := by
  unfold recordBlock Claims.recordField
  simp only [slotBytes, sidBytes, unsigned16_eq, offsetBytes_eq, coefficientBytes_eq, correctionByte_eq, attentionByte_eq,
    lastMeasuredBytes_eq, channelByte, byteOfNat, byteOfBool, verdictByte_eq, stepClassByte_eq, bindingByte_eq]
  cases r.state <;> rfl

/-! ### SCAN (R25) -/

theorem scanFrom_first {s : State} {start i : Slot} {k : AttentionKind} (hi : start ≤ i)
    (has : (s.station i).attention.has k = true)
    (lower : ∀ j, start ≤ j → j < i → (s.station j).attention.has k = false) : scanFrom s start k = some i := by
  unfold scanFrom
  rw [List.find?_eq_some_iff_getElem]
  refine ⟨by simp [hi, has], i, by simp, by simp, fun j hj => ?_⟩
  have below : ⟨j, by omega⟩ < start ∨ (s.station ⟨j, by omega⟩).attention.has k = false :=
    (lt_or_ge _ start).imp_right fun hs => lower _ hs hj
  simpa using below

theorem scanFrom_none {s : State} {start : Slot} {k : AttentionKind}
    (h : ∀ j, start ≤ j → (s.station j).attention.has k = false) : scanFrom s start k = none := by
  unfold scanFrom
  rw [List.find?_eq_none]
  intro j _
  simpa using h j

theorem readAttentionKind_of {k : Byte} {kind : AttentionKind} (h : (k = 1 ∧ kind = .staleNew) ∨
    (k = 2 ∧ kind = .programmeDone) ∨ (k = 3 ∧ kind = .saturated)) : readAttentionKind k = some kind := by
  rcases h with ⟨rfl, rfl⟩ | ⟨rfl, rfl⟩ | ⟨rfl, rfl⟩ <;> rfl

theorem scanRequest_refused {v : BitVec 16} {k : Byte} (h : 1024 ≤ v.toNat ∨ k = 0 ∨ 4 ≤ k.toNat) (s : State) :
    scanRequest v k s = refuse .range s := by
  unfold scanRequest
  rcases h with hv | hk
  · rw [readSlot_none hv]
  · rw [readAttentionKind_none hk]
    cases readSlot v <;> rfl

/-- Settles O39: the three requests change nothing, and what they answer is spelled by the field lemmas above. -/
theorem lookupsReportRecordAndScanFindsAttention : Obligations.LookupsReportRecordAndScanFindsAttention := by
  refine ⟨fun v s hs => ⟨fun i hv => ?_, fun i hv => ?_, fun hv => ?_⟩, fun v k kind s hs => ⟨fun out => ?_, ?scan⟩⟩
  · refine exec_accepted (Option.some_ne_none _) hs ?_
    rw [requestEffect, lookupRequest, withSid_named hv, recordBlock_eq]
  · refine exec_accepted (Option.some_ne_none _) hs ?_
    rw [requestEffect, lookupSlotRequest, readSlot_of hv, ← recordBlock_eq]
  · refine exec_refused (Option.some_ne_none _) hs ?_
    rw [requestEffect, lookupSlotRequest, readSlot_none hv]
  · exact exec_refused (Option.some_ne_none _) hs (scanRequest_refused out s)
  case scan =>
    intro hk hv
    have start : readSlot v = some ⟨v.toNat, hv⟩ := readSlot_of rfl
    refine ⟨fun i hi has lower => ?_, fun lacking => ?_⟩
    · refine exec_accepted (Option.some_ne_none _) hs ?_
      rw [requestEffect, scanRequest, start, readAttentionKind_of hk]
      dsimp only
      rw [scanFrom_first hi has lower]
      dsimp only
      rw [slotBytes, sidBytes, unsigned16_eq, unsigned16_eq]
    · refine exec_refused (Option.some_ne_none _) hs ?_
      rw [requestEffect, scanRequest, start, readAttentionKind_of hk]
      dsimp only
      rw [scanFrom_none lacking]

end Sys2Proof.Machine
end

section
/-! WRITE STATION: what one setting writes, what a list of settings writes, and the refusals (R26, R27). -/

namespace Sys2Proof.Machine

/-! ### One setting -/

/-- The items of a record that a setting names are the same in `r'` as in `r`. -/
def SameItem (r r' : Station) : Setting → Prop
  | .channel _ => r'.channel = r.channel
  | .timingEstimate _ => r'.estimate.timing = r.estimate.timing
  | .powerEstimate _ => r'.estimate.power = r.estimate.power
  | .frequencyEstimate _ => r'.estimate.frequency = r.estimate.frequency
  | .advertisedTiming _ => r'.advertised.timing = r.advertised.timing
  | .advertisedPower _ => r'.advertised.power = r.advertised.power
  | .advertisedFrequency _ => r'.advertised.frequency = r.advertised.frequency
  | .coefficients _ => r'.coefficients = r.coefficients ∧ r'.generation = r.generation
  | .missReload _ => r'.missReload = r.missReload
  | .stepClass _ => r'.stepClass = r.stepClass
  | .unknown _ _ => True

/-- The record `r'` holds what a setting writes on the record `r`; a coefficient setting raises the generation (R7). -/
def SettingWritten (r r' : Station) : Setting → Prop
  | .channel v => r'.channel.val = v.toNat
  | .timingEstimate v => r'.estimate.timing = v.toInt
  | .powerEstimate v => r'.estimate.power = v.toInt
  | .frequencyEstimate v => r'.estimate.frequency = v.toInt
  | .advertisedTiming v => r'.advertised.timing = v.toInt
  | .advertisedPower v => r'.advertised.power = v.toInt
  | .advertisedFrequency v => r'.advertised.frequency = v.toInt
  | .coefficients (.absent _) => r'.coefficients = none ∧ r'.generation = r.generation + 1
  | .coefficients (.present code _ main taps) =>
    (∃ f, r'.coefficients = some f ∧ f.count.toNat = tapsOfCode code ∧ f.main = main.toNat ∧ f.taps = taps) ∧
      r'.generation = r.generation + 1
  | .missReload v => r'.missReload = v.toNat
  | .stepClass v => r'.stepClass = if v = 0 then .coarse else .fine
  | .unknown _ _ => True

/-- The record without the items that settings name. -/
def Station.unset (r : Station) : Station :=
  { r with channel := 0, estimate := .zero, advertised := .zero, coefficients := none, generation := 0,
           missReload := 0, stepClass := .coarse }

theorem SameItem.refl (r : Station) (x : Setting) : SameItem r r x := by
  cases x <;> simp [SameItem]

theorem SameItem.trans {r u r' : Station} {x : Setting} (a : SameItem r u x) (b : SameItem u r' x) :
    SameItem r r' x := by
  cases x <;> simp_all [SameItem]

/-- What a setting has written stands while its items do. -/
theorem SettingWritten.trans {r u r' : Station} {x : Setting} (a : SettingWritten r u x) (b : SameItem u r' x) :
    SettingWritten r r' x := by
  cases x with
  | coefficients f => cases f <;> simp_all [SettingWritten, SameItem]
  | _ => simp_all [SettingWritten, SameItem]

/-- A setting writes the same on a record whose items it names stood before. -/
theorem SameItem.written {r u r' : Station} {x : Setting} (a : SameItem r u x) (b : SettingWritten u r' x) :
    SettingWritten r r' x := by
  cases x with
  | coefficients f => cases f <;> simp_all [SettingWritten, SameItem]
  | _ => simp_all [SettingWritten, SameItem]

theorem readChannel_isSome (v : Byte) : (readChannel v).isSome = true ↔ v.toNat ≤ 3 := by
  unfold readChannel
  split <;> simp <;> omega

theorem readStepClass_isSome (v : Byte) : (readStepClass v).isSome = true ↔ v.toNat ≤ 1 := by
  revert v
  decide

theorem readCoefficientSet_isSome (f : CoefficientField) :
    (readCoefficientSet f).isSome = true ↔ Claims.settingInRange (.coefficients f) := by
  cases f with
  | absent low => simp [readCoefficientSet, Claims.settingInRange]
  | present code reserved main taps => simp [readCoefficientSet, Claims.settingInRange, tapCountOf_toNat]

/-- A setting is taken exactly when its value lies in its field's range. -/
theorem applySetting_isSome (r : Station) (x : Setting) :
    (applySetting r x).isSome = true ↔ Claims.settingInRange x := by
  cases x with
  | channel v =>
    rw [Claims.settingInRange, ← readChannel_isSome, applySetting]
    cases readChannel v <;> simp
  | coefficients f =>
    rw [← readCoefficientSet_isSome, applySetting]
    cases readCoefficientSet f <;> simp
  | stepClass v =>
    rw [Claims.settingInRange, ← readStepClass_isSome, applySetting]
    cases readStepClass v <;> simp
  | timingEstimate v => simp [applySetting, Claims.settingInRange, timingInRange_iff]
  | powerEstimate v => simp [applySetting, Claims.settingInRange, powerInRange_iff]
  | frequencyEstimate v => simp [applySetting, Claims.settingInRange]
  | advertisedTiming v => simp [applySetting, Claims.settingInRange, timingInRange_iff]
  | advertisedPower v => simp [applySetting, Claims.settingInRange, powerInRange_iff]
  | advertisedFrequency v => simp [applySetting, Claims.settingInRange]
  | missReload v => simp [applySetting, Claims.settingInRange]
  | unknown n rest => simp [applySetting, Claims.settingInRange]

/-- The set that a coefficient field of a request stands for (R197). -/
theorem readCoefficientSet_some {code : BitVec 2} {reserved : BitVec 5} {main : Byte} {taps : List Cplx}
    {set : Option CoefficientSet} (h : readCoefficientSet (.present code reserved main taps) = some set) :
    ∃ f, set = some f ∧ f.count.toNat = tapsOfCode code ∧ f.main = main.toNat ∧ f.taps = taps := by
  unfold readCoefficientSet at h
  dsimp only at h
  split at h
  · injection h with h
    exact ⟨_, h.symm, tapCountOf_toNat code, rfl, rfl⟩
  · cases h

theorem readChannel_val {v : Byte} {c : Channel} (h : readChannel v = some c) : c.val = v.toNat := by
  unfold readChannel at h
  split at h
  · injection h with h
    rw [← h]
  · cases h

theorem readStepClass_some {v : Byte} {x : StepClass} (h : readStepClass v = some x) :
    x = if v = 0 then .coarse else .fine := by
  unfold readStepClass at h
  split at h
  · next hv => rw [if_pos hv]; injection h with h; exact h.symm
  · next hv =>
    rw [if_neg hv]
    split at h
    · injection h with h; exact h.symm
    · cases h

/-- What a setting that is taken writes. -/
theorem applySetting_written {r r' : Station} {x : Setting} (h : applySetting r x = some r') :
    SettingWritten r r' x := by
  unfold applySetting at h
  split at h
  case h_1 v =>
    split at h
    · next c hc => injection h with h; subst h; exact readChannel_val hc
    · cases h
  case h_8 f =>
    split at h
    · next set hset =>
      injection h with h
      subst h
      cases f with
      | absent low =>
        unfold readCoefficientSet at hset
        dsimp only at hset
        split at hset
        · injection hset with hset; exact ⟨hset.symm, rfl⟩
        · cases hset
      | present code reserved main taps => exact ⟨readCoefficientSet_some hset, rfl⟩
    · cases h
  case h_10 v =>
    split at h
    · next c hc => injection h with h; subst h; exact readStepClass_some hc
    · cases h
  case h_11 => cases h
  all_goals
    (try split at h)
    all_goals first | (injection h with h; subst h; exact rfl) | cases h

/-- A setting writes the items that it names, and nothing else of the record. -/
theorem applySetting_others {r r' : Station} {x : Setting} (h : applySetting r x = some r') {y : Setting}
    (hy : y.identifier ≠ x.identifier) : SameItem r r' y := by
  unfold applySetting at h
  split at h <;> (try split at h) <;> (try (cases h; done)) <;>
    (injection h with h; subst h; cases y <;>
      first | exact trivial | exact rfl | exact ⟨rfl, rfl⟩ | exact absurd rfl hy)

theorem applySetting_unset {r r' : Station} {x : Setting} (h : applySetting r x = some r') : r'.unset = r.unset := by
  unfold applySetting at h
  split at h <;> (try split at h) <;> (try (cases h; done)) <;> (injection h with h; subst h; rfl)

/-! ### A list of settings -/

theorem applySettings_cons (r : Station) (x : Setting) (l : List Setting) :
    applySettings r (x :: l) = (applySetting r x).bind fun u => applySettings u l := by
  rw [applySettings]
  cases applySetting r x <;> rfl

/-- A list of settings is taken exactly when each of them is. -/
theorem applySettings_isSome (l : List Setting) (r : Station) :
    (applySettings r l).isSome = true ↔ ∀ x ∈ l, Claims.settingInRange x := by
  induction l generalizing r with
  | nil => simp [applySettings]
  | cons x rest ih =>
    rw [applySettings_cons, List.forall_mem_cons, ← applySetting_isSome r x]
    cases applySetting r x with
    | none => simp
    | some u => simpa using ih u

/-- What a list of settings leaves: the items of every field it does not name, and all that no setting names. -/
theorem applySettings_others {l : List Setting} {r r' : Station} (h : applySettings r l = some r') :
    (∀ y : Setting, y.identifier ∉ l.map Setting.identifier → SameItem r r' y) ∧ r'.unset = r.unset := by
  induction l generalizing r with
  | nil => injection h with h; subst h; exact ⟨fun y _ => .refl r y, rfl⟩
  | cons x rest ih =>
    rw [applySettings_cons] at h
    obtain ⟨u, hu, h⟩ := Option.bind_eq_some_iff.mp h
    obtain ⟨others, unset⟩ := ih h
    refine ⟨fun y hy => ?_, unset.trans (applySetting_unset hu)⟩
    rw [List.map_cons, List.mem_cons, not_or] at hy
    exact (applySetting_others hu hy.1).trans (others y hy.2)

/-- Of a list that names no field twice, each setting writes its items. -/
theorem applySettings_written {l : List Setting} {r r' : Station} (h : applySettings r l = some r')
    (distinct : (l.map Setting.identifier).Nodup) : ∀ x ∈ l, SettingWritten r r' x := by
  induction l generalizing r with
  | nil => simp
  | cons x rest ih =>
    rw [applySettings_cons] at h
    obtain ⟨u, hu, taken⟩ := Option.bind_eq_some_iff.mp h
    rw [List.map_cons, List.nodup_cons] at distinct
    intro y hy
    rcases List.mem_cons.mp hy with rfl | hy
    · exact (applySetting_written hu).trans ((applySettings_others taken).1 y distinct.1)
    · have other : y.identifier ≠ x.identifier := fun e => distinct.1 (e ▸ List.mem_map_of_mem hy)
      exact (applySetting_others hu other).written (ih taken distinct.2 y hy)

/-- The identifier tells the field that a setting with a field names (R199). -/
structure NamesField (y : Setting) : Prop where
  channel : y.identifier = 1 → ∃ v, y = .channel v
  timingEstimate : y.identifier = 2 → ∃ v, y = .timingEstimate v
  powerEstimate : y.identifier = 3 → ∃ v, y = .powerEstimate v
  frequencyEstimate : y.identifier = 4 → ∃ v, y = .frequencyEstimate v
  advertisedTiming : y.identifier = 5 → ∃ v, y = .advertisedTiming v
  advertisedPower : y.identifier = 6 → ∃ v, y = .advertisedPower v
  advertisedFrequency : y.identifier = 7 → ∃ v, y = .advertisedFrequency v
  coefficients : y.identifier = 8 → ∃ f, y = .coefficients f
  missReload : y.identifier = 9 → ∃ v, y = .missReload v
  stepClass : y.identifier = 10 → ∃ v, y = .stepClass v

theorem namesField {y : Setting} (h : Claims.settingInRange y) : NamesField y := by
  cases y with
  | unknown n rest => exact h.elim
  | _ => constructor <;> simp [Setting.identifier]

/-- A list that holds no setting of a field leaves the items of that field. -/
theorem applySettings_absent {l : List Setting} {r r' : Station} (h : applySettings r l = some r') {n : Byte} {α : Type}
    {field : α → Setting} (names : ∀ y ∈ l, y.identifier = n → ∃ v, y = field v) (absent : ∀ v, field v ∉ l) (x : α)
    (hn : (field x).identifier = n) : SameItem r r' (field x) := by
  refine (applySettings_others h).1 _ fun mem => ?_
  obtain ⟨y, hy, e⟩ := List.mem_map.mp mem
  obtain ⟨v, rfl⟩ := names y hy (e.trans hn)
  exact absent v hy

/-! ### The checks of WRITE STATION (R26) -/

theorem namesDistinct_iff (l : List Setting) : namesDistinct l = true ↔ (l.map Setting.identifier).Nodup := by
  induction l with
  | nil => simp [namesDistinct]
  | cons x rest ih => simp [namesDistinct, ih]

theorem allowedBound_iff (x : Setting) :
    Setting.allowedBound x = true ↔ (∃ v, x = .missReload v) ∨ ∃ v, x = .stepClass v := by
  cases x <;> simp [Setting.allowedBound]

theorem known_of_inRange {l : List Setting} (h : ∀ x ∈ l, Claims.settingInRange x) (n : Byte) (rest : List Byte) :
    Setting.unknown n rest ∉ l := fun mem => h _ mem

theorem writeStation_named {v : BitVec 16} {l : List Setting} {i : Slot} {s : State} (hv : Claims.sidNames s v i)
    (hl : settingsSpelled l = true) (hr : ∀ x ∈ l, Claims.settingInRange x) :
    writeStationRequest v l s = writeStationAt l i s := by
  rw [writeStation_withSid v hl (known_of_inRange hr), withSid_named hv]

/-- Settles O40: the settings that `applySettings` takes write their items and leave the rest. -/
theorem writeStationAppliesSettings : Obligations.WriteStationAppliesSettings := by
  intro v l i s hs hv taken r
  obtain ⟨spelled, distinct, ranged, bound⟩ := taken
  obtain ⟨r', applied⟩ := Option.isSome_iff_exists.mp ((applySettings_isSome l r).mpr ranged)
  have allowed : ¬ (((s.station i).binding ≠ .none && !l.all Setting.allowedBound) = true) := by
    simp only [Bool.and_eq_true, decide_eq_true_eq, Bool.not_eq_true', not_and, Bool.not_eq_false, List.all_eq_true]
    exact fun hb x hx => (allowedBound_iff x).mpr (bound hb x hx)
  have request : requestEffect (.writeStation v l) s =
      accept (Claims.two i.val ++ [r'.generation]) (s.setStation i r') := by
    rw [requestEffect, writeStation_named hv spelled ranged, writeStationAt, if_pos ((namesDistinct_iff l).mpr distinct),
      applied]
    dsimp only
    rw [if_neg allowed, slotBytes, unsigned16_eq]
  have written := applySettings_written applied distinct
  have same {α : Type} (item : Station → α) : item r'.unset = item r.unset :=
    congrArg item (applySettings_others applied).2
  have names (x : Setting) (hx : x ∈ l) : NamesField x := namesField (ranged x hx)
  refine ⟨r', exec_accepted (Option.some_ne_none _) hs request,
    fun x hx => written _ hx,
    fun no => applySettings_absent applied (fun y hy => (names y hy).channel) no 0 rfl,
    fun x hx => written _ hx,
    fun no => applySettings_absent applied (fun y hy => (names y hy).timingEstimate) no 0 rfl,
    fun x hx => written _ hx,
    fun no => applySettings_absent applied (fun y hy => (names y hy).powerEstimate) no 0 rfl,
    fun x hx => written _ hx,
    fun no => applySettings_absent applied (fun y hy => (names y hy).frequencyEstimate) no 0 rfl,
    fun x hx => written _ hx,
    fun no => applySettings_absent applied (fun y hy => (names y hy).advertisedTiming) no 0 rfl,
    fun x hx => written _ hx,
    fun no => applySettings_absent applied (fun y hy => (names y hy).advertisedPower) no 0 rfl,
    fun x hx => written _ hx,
    fun no => applySettings_absent applied (fun y hy => (names y hy).advertisedFrequency) no 0 rfl,
    fun hx => written _ hx, fun code main taps hx => written _ hx,
    fun no => applySettings_absent applied (fun y hy => (names y hy).coefficients) no (.absent 0) rfl,
    fun x hx => written _ hx,
    fun no => applySettings_absent applied (fun y hy => (names y hy).missReload) no 0 rfl,
    fun hx => written _ hx, fun hx => written _ hx,
    fun no => applySettings_absent applied (fun y hy => (names y hy).stepClass) no 0 rfl,
    same Station.state, same Station.sid, same Station.lastMeasured,
    same Station.missesRemaining, same Station.armed, same Station.vector,
    same Station.remaining, same Station.lastVerdict, same Station.exportWanted,
    same Station.correction, same Station.reCorrect, same Station.attention,
    same Station.binding⟩

/-- A setting out of its range, or a field named twice, is refused (R26 check 2). -/
theorem writeStation_range {v : BitVec 16} {l : List Setting} {i : Slot} {s : State} (hv : Claims.sidNames s v i)
    (hl : settingsSpelled l = true)
    (h : ¬ (l.map Setting.identifier).Nodup ∨ ∃ x ∈ l, ¬ Claims.settingInRange x) :
    writeStationRequest v l s = refuse .range s := by
  by_cases known : ∀ n rest, Setting.unknown n rest ∉ l
  · rw [writeStation_withSid v hl known, withSid_named hv, writeStationAt]
    by_cases distinct : namesDistinct l = true
    · obtain ⟨x, hx, out⟩ := h.resolve_left (not_not_intro ((namesDistinct_iff l).mp distinct))
      have refused : applySettings (s.station i) l = none := by
        rw [← Option.not_isSome_iff_eq_none, applySettings_isSome]
        exact fun ranged => out (ranged x hx)
      rw [if_pos distinct, refused]
    · rw [if_neg distinct]
  · push Not at known
    obtain ⟨n, rest, mem⟩ := known
    exact writeStation_unknown v hl mem s

/-- A restricted field of a bound record is refused (R26 check 3). -/
theorem writeStation_busy {v : BitVec 16} {l : List Setting} {i : Slot} {s : State} (hv : Claims.sidNames s v i)
    (hl : settingsSpelled l = true) (distinct : (l.map Setting.identifier).Nodup)
    (ranged : ∀ x ∈ l, Claims.settingInRange x) (bound : (s.station i).binding ≠ .none)
    (restricted : ∃ x ∈ l, (∀ y, x ≠ .missReload y) ∧ (∀ y, x ≠ .stepClass y)) :
    writeStationRequest v l s = refuse .busy s := by
  obtain ⟨r', applied⟩ := Option.isSome_iff_exists.mp ((applySettings_isSome l (s.station i)).mpr ranged)
  obtain ⟨x, hx, noReload, noClass⟩ := restricted
  have denied : ((s.station i).binding ≠ .none && !l.all Setting.allowedBound) = true := by
    simp only [Bool.and_eq_true, decide_eq_true_eq, Bool.not_eq_true']
    refine ⟨bound, Bool.eq_false_iff.mpr fun all => ?_⟩
    rcases (allowedBound_iff x).mp (List.all_eq_true.mp all x hx) with ⟨y, e⟩ | ⟨y, e⟩
    · exact noReload y e
    · exact noClass y e
  rw [writeStation_named hv hl ranged, writeStationAt, if_pos ((namesDistinct_iff l).mpr distinct), applied]
  dsimp only
  rw [if_pos denied]

end Sys2Proof.Machine
end

section
/-! ADMIT: its values, the record it writes, the probe it takes, and its refusals (R21 to R23). -/

namespace Sys2Proof.Machine

/-! ### The values (R21 check 1) -/

theorem tapCountOf_eq {code : BitVec 2} {n : TapCount} (h : n.toNat = tapsOfCode code) : tapCountOf code = n := by
  have injective (x y : TapCount) : x.toNat = y.toNat → x = y := by cases x <;> cases y <;> decide
  exact injective _ _ ((tapCountOf_toNat code).trans h.symm)

theorem readOptionalIndex_eq_some {x : Option Byte} {y : Option DescriptorId} :
    readOptionalIndex x = some y ↔ x.map BitVec.toNat = y.map Fin.val := by
  cases x with
  | none => cases y <;> simp [readOptionalIndex]
  | some v =>
    by_cases hv : v.toNat < 128
    · have read : readIndex v = some ⟨v.toNat, hv⟩ := readIndex_of rfl
      cases y <;> simp [readOptionalIndex, read, Fin.ext_iff]
    · cases y with
      | none => simp [readOptionalIndex, readIndex_none (Nat.not_lt.mp hv)]
      | some d => simp [readOptionalIndex, readIndex_none (Nat.not_lt.mp hv)]; omega

/-- The values of ADMIT are what `readAdmission` reads from a body that can be sent. -/
theorem readAdmission_of {b : AdmitBody} {sid : Sid} {channel : Channel} {vector : Option DescriptorId}
    {set : Option CoefficientSet} (h : Claims.admitValues b sid channel vector set) :
    readAdmission b = some ⟨sid, channel, b.missReload.toNat, vector, b.token, set⟩ := by
  obtain ⟨eq, low, high⟩ := h.sid
  have readS : readSid b.sid = some sid := by
    rw [readSid_of (by omega) (by omega)]
    exact congrArg some (Fin.ext (by simp [Fin.ofNat]; omega))
  have readF : readCoefficientSet b.coefficients = some set := by
    rcases h.coefficients with ⟨field, absent⟩ |
        ⟨code, main, taps, f, field, count, below, present, fcount, fmain, ftaps⟩
    · rw [field, absent]; rfl
    · obtain ⟨fc, fm, ft⟩ := f
      dsimp only at fcount fmain ftaps
      rw [field, present, readCoefficientSet, tapCountOf_eq fcount, if_pos (by simp [fcount, below]), fmain, ftaps]
  rw [readAdmission, readS, readChannel_of h.channel, readOptionalIndex_eq_some.mpr h.vector, readF]
  dsimp only
  rw [if_pos (by simp [h.missReload, h.reserved])]

theorem admitValues_wellFormed {b : AdmitBody} {sid : Sid} {channel : Channel} {vector : Option DescriptorId}
    {set : Option CoefficientSet} (h : Claims.admitValues b sid channel vector set) :
    b.coefficients.wellFormed = true := by
  rcases h.coefficients with ⟨field, _⟩ | ⟨code, main, taps, f, field, count, _⟩
  · rw [field]; rfl
  · rw [field]; simp [CoefficientField.wellFormed, count]

theorem readSid_val {v : BitVec 16} {sid : Sid} (h : readSid v = some sid) :
    v.toNat = sid.val ∧ 1 ≤ sid.val ∧ sid.val ≤ 4094 := by
  unfold readSid at h
  split at h
  · split at h
    · cases h
    · next hv =>
      injection h with h
      subst h
      simp only [Bool.or_eq_true, decide_eq_true_eq, not_or] at hv
      dsimp only
      omega
  · cases h

/-- What `readAdmission` reads from a body that can be sent are the values of ADMIT. -/
theorem admitValues_of {b : AdmitBody} {a : Admission} (hw : b.coefficients.wellFormed = true)
    (h : readAdmission b = some a) : Claims.admitValues b a.sid a.channel a.vector a.coefficients := by
  unfold readAdmission at h
  split at h
  · next sid channel vector set hs hc hv hf =>
    split at h
    · next checks =>
      injection h with h
      subst h
      simp only [Bool.and_eq_true, decide_eq_true_eq] at checks
      refine ⟨readSid_val hs, (readChannel_val hc).symm, checks.1, checks.2, readOptionalIndex_eq_some.mp hv, ?_⟩
      have ranged := (readCoefficientSet_isSome b.coefficients).mp (by rw [hf]; rfl)
      cases field : b.coefficients with
      | absent low =>
        rw [field] at ranged hf
        cases ranged
        injection hf with hf
        exact .inl ⟨rfl, hf.symm⟩
      | present code reserved main taps =>
        rw [field] at ranged hf hw
        obtain ⟨rfl, below⟩ := ranged
        obtain ⟨f, read, count, fmain, ftaps⟩ := readCoefficientSet_some hf
        have length : taps.length = tapsOfCode code := by simpa [CoefficientField.wellFormed] using hw
        exact .inr ⟨code, main, taps, f, rfl, length, below, read, count, fmain, ftaps⟩
    · cases h
  · cases h

/-! ### The slot, the probe and the record -/

theorem lowestFree_eq {s : State} {i : Slot} (hi : (s.station i).state = .free)
    (lower : ∀ j, j < i → (s.station j).state ≠ .free) : lowestFree s = some i := by
  unfold lowestFree
  rw [List.find?_eq_some_iff_getElem]
  refine ⟨by simpa using hi, i, by simp, by simp, fun j hj => ?_⟩
  simpa using lower ⟨j, by omega⟩ hj

theorem lowestFree_none {s : State} (h : ∀ i, (s.station i).state ≠ .free) : lowestFree s = none := by
  simp [lowestFree, h]

theorem lowestFree_ne_none {s : State} {i : Slot} (hi : (s.station i).state = .free) : lowestFree s ≠ none := by
  intro h
  rw [lowestFree, List.find?_eq_none] at h
  exact h i (List.mem_finRange i) (by simp [hi])

theorem admittedRecord_eq (s : State) (b : AdmitBody) (sid : Sid) (channel : Channel) (vector : Option DescriptorId)
    (set : Option CoefficientSet) :
    admittedRecord s ⟨sid, channel, b.missReload.toNat, vector, b.token, set⟩ =
      Claims.admitted s b sid channel vector set := by
  cases vector <;> rfl

theorem Offsets.clamped_of_inRange {o : Offsets} (h : o.InRange) : o.clamped = o := by
  obtain ⟨t, p, f⟩ := o
  obtain ⟨⟨t1, t2⟩, ⟨p1, p2⟩, ⟨f1, f2⟩⟩ := h
  simp only [Offsets.clamped, clampTiming, clampPower, clampFrequency, clamp_id _ _ _ t1 t2, clamp_id _ _ _ p1 p2,
    clamp_id _ _ _ f1 f2]

/-- The entry that carries a token, in a list where no other does. -/
theorem findProbe_eq {s : State} {before after : List Probe} {p : Probe} {t : Token}
    (hs : s.probes = before ++ p :: after) (hp : p.token = t) (others : ∀ q ∈ before ++ after, q.token ≠ t) :
    findProbe s t = some p := by
  rw [findProbe, hs, List.find?_append, List.find?_eq_none.mpr, Option.none_or, List.find?_cons_of_pos (by simp [hp])]
  exact fun q hq => by simpa using others q (List.mem_append_left after hq)

theorem findProbe_none {s : State} {t : Token} (h : ∀ p ∈ s.probes, p.token ≠ t) : findProbe s t = none := by
  simpa [findProbe] using h

/-- Without the entry that carries the token the others stand as they were (R115). -/
theorem filter_others {before after : List Probe} {p : Probe} {t : Token} (hp : p.token = t)
    (others : ∀ q ∈ before ++ after, q.token ≠ t) :
    (before ++ p :: after).filter (fun q => q.token ≠ t) = before ++ after := by
  have kept (l : List Probe) (h : ∀ q ∈ l, q.token ≠ t) : l.filter (fun q => q.token ≠ t) = l :=
    List.filter_eq_self.mpr fun q hq => by simpa using h q hq
  rw [List.filter_append, List.filter_cons_of_neg (by simp [hp]),
    kept before fun q hq => others q (List.mem_append_left after hq),
    kept after fun q hq => others q (List.mem_append_right before hq)]

/-! ### ADMIT -/

theorem admitRequest_checked {b : AdmitBody} {sid : Sid} {channel : Channel} {vector : Option DescriptorId}
    {set : Option CoefficientSet} (h : Claims.admitValues b sid channel vector set) (s : State) :
    admitRequest b s = admitChecked ⟨sid, channel, b.missReload.toNat, vector, b.token, set⟩ s := by
  rw [admitRequest, if_pos (admitValues_wellFormed h), readAdmission_of h]

/-- The record of an admission from a probe, its estimates the probe's errors, asks for a correction (R23, R153). -/
theorem admitFromProbe_eq {s : State} {i : Slot} {a : Admission} {before after : List Probe} {p : Probe}
    (hs : s.probes = before ++ p :: after) (others : ∀ q ∈ before ++ after, q.token ≠ p.token)
    (hp : p.errors.InRange) :
    admitFromProbe i p (writeAdmission i a s) = requestCorrection i
      { (s.setStation i { admittedRecord s a with estimate := p.errors }).setSidEntry a.sid (some i) with
        probes := before ++ after } := by
  have written : (writeAdmission i a s).station i = admittedRecord s a := station_setStation_same _ _ _
  have rewritten (r : Station) :
      (writeAdmission i a s).setStation i r = (s.setStation i r).setSidEntry a.sid (some i) := by
    rw [writeAdmission, setSidEntry_setStation, setStation_setStation]
  rw [admitFromProbe, written, rewritten, Offsets.clamped_of_inRange hp, removeProbe]
  dsimp only [State.setSidEntry, State.setStation]
  rw [hs, filter_others rfl others]

/-- From check 2 of R21 on, without a token. -/
theorem admitChecked_plain {a : Admission} {i : Slot} {s : State} (unused : s.sidEntry a.sid = none)
    (slot : lowestFree s = some i) (token : a.token = none) :
    admitChecked a s = accept (Claims.two i.val) (writeAdmission i a s) := by
  rw [admitChecked, unused, slot, token, ← unsigned16_eq]
  rfl

/-- From check 2 of R21 on, with the token of a probe that is held. -/
theorem admitChecked_probe {a : Admission} {i : Slot} {s : State} {t : Token} {p : Probe}
    (unused : s.sidEntry a.sid = none) (slot : lowestFree s = some i) (token : a.token = some t)
    (probe : findProbe s t = some p) :
    admitChecked a s = accept (Claims.two i.val) (admitFromProbe i p (writeAdmission i a s)) := by
  rw [admitChecked, unused, slot, token, ← unsigned16_eq]
  dsimp only
  rw [probe]
  rfl

/-- The correction entry of a record just admitted from a probe (R152). -/
theorem buildCorrection_admitted {r : Station} (hv : r.lastVerdict = .none) (he : r.exportWanted = false)
    (ha : r.advertised = ⟨0, 0, 0⟩) (i : Slot) : buildCorrection i r = ⟨i, r.sid, r.estimate, .adjust, none⟩ := by
  simp [buildCorrection, hv, he, ha, Offsets.minus, Verdict.told]

/-- A correction request of a record that has none, with room in the queue: its entry is built and it is QUEUED (R154). -/
theorem requestCorrection_room {u : State} {i : Slot} {r : Station} (hr : u.station i = r) (hc : r.correction = .none)
    (hf : r.reCorrect = false) (room : u.queue.length < queueCapacity) : requestCorrection i u =
      { u.setStation i { r with correction := .queued } with queue := u.queue ++ [buildCorrection i r] } := by
  subst hr
  rw [requestCorrection, hc]
  dsimp only
  rw [if_pos room, enterQueue, ← hf]

/-- A correction request of a record that has none, with the queue full: it joins the Held List (R154). -/
theorem requestCorrection_full {u : State} {i : Slot} {r : Station} (hr : u.station i = r) (hc : r.correction = .none)
    (hf : r.reCorrect = false) (full : queueCapacity ≤ u.queue.length) : requestCorrection i u =
      { u.setStation i { r with correction := .held } with held := u.held ++ [i] } := by
  subst hr
  rw [requestCorrection, hc]
  dsimp only
  rw [if_neg (Nat.not_lt.mpr full), enterHeld, ← hf]

/-- Settles O41: the slot is the lowest FREE one, and a probe's correction request finds the record with none. -/
theorem admitWritesRecord : Obligations.AdmitWritesRecord := by
  intro b sid channel vector set i s hs values unused free lower r
  have record : admittedRecord s ⟨sid, channel, b.missReload.toNat, vector, b.token, set⟩ = r :=
    admittedRecord_eq s b sid channel vector set
  have slot : lowestFree s = some i := lowestFree_eq free lower
  have request := admitRequest_checked values s
  refine ⟨fun token => ?_, fun t before after p token probes hp others ranged => ?_⟩
  · rw [← record]
    exact exec_accepted (Option.some_ne_none _) hs (request.trans (admitChecked_plain unused slot token))
  · subst hp
    have probe := request.trans (admitChecked_probe unused slot token (findProbe_eq probes rfl others))
    rw [admitFromProbe_eq probes others ranged, record] at probe
    refine ⟨fun room => exec_accepted (Option.some_ne_none _) hs (probe.trans ?_),
      fun full => exec_accepted (Option.some_ne_none _) hs (probe.trans ?_)⟩
    · refine congrArg (accept _) ((requestCorrection_room (r := { r with estimate := p.errors })
        (by exact station_setStation_same _ _ _) rfl rfl (by exact room)).trans ?_)
      rw [buildCorrection_admitted rfl rfl rfl i]
      simp only [State.setSidEntry, State.setStation, Vector.set_set, r, Claims.admitted]
    · refine congrArg (accept _) ((requestCorrection_full (r := { r with estimate := p.errors })
        (by exact station_setStation_same _ _ _) rfl rfl (by exact full)).trans ?_)
      simp only [State.setSidEntry, State.setStation, Vector.set_set, r, Claims.admitted]

/-- Settles O42: each refusal is the first check that fails. -/
theorem setUpRefusals : Obligations.SetUpRefusals := by
  refine ⟨fun v l i s hs hv hl => ⟨fun h => ?_, fun distinct ranged bound restricted => ?_⟩,
    fun b s hs hw => ⟨fun invalid => ?_, fun sid channel vector set values => ⟨fun used => ?_, fun unused full => ?_,
      fun t i unused free ht unknown => ?_⟩⟩⟩
  · exact exec_refused (Option.some_ne_none _) hs (writeStation_range hv hl h)
  · exact exec_refused (Option.some_ne_none _) hs (writeStation_busy hv hl distinct ranged bound restricted)
  · refine exec_refused (Option.some_ne_none _) hs ?_
    have unread : readAdmission b = none :=
      Option.eq_none_iff_forall_ne_some.mpr fun a h => invalid _ _ _ _ (admitValues_of hw h)
    rw [requestEffect, admitRequest, if_pos hw, unread]
  · refine exec_refused (Option.some_ne_none _) hs ?_
    rw [requestEffect, admitRequest_checked values, admitChecked, if_pos (Option.isSome_iff_ne_none.mpr used)]
  · refine exec_refused (Option.some_ne_none _) hs ?_
    rw [requestEffect, admitRequest_checked values, admitChecked, unused, lowestFree_none full]
    rfl
  · refine exec_refused (Option.some_ne_none _) hs ?_
    obtain ⟨j, hj⟩ := Option.ne_none_iff_exists'.mp (lowestFree_ne_none free)
    rw [requestEffect, admitRequest_checked values, admitChecked, unused, hj, ht]
    dsimp only
    rw [findProbe_none unknown]
    rfl

end Sys2Proof.Machine
end

section
/-! A maintenance completion on an armed programme: the chain, the walk over it, the count, the move of the record, and
what is told (R132, R140 to R146). -/

namespace Sys2Proof.Machine

/-! ### The chain (R132) -/

theorem chainFrom_eq (s : State) (room : Nat) (i : DescriptorId) : (chainFrom s room i).map s.descriptor =
    ((List.range room).filter fun k => ∀ j < k, (s.descriptor (Fin.ofNat 128 (i.val + j))).chain = true ∧
      i.val + j < 127).map fun k => s.descriptor (Fin.ofNat 128 (i.val + k)) := by
  induction room generalizing i with
  | zero => rfl
  | succ room ih =>
    have here : Fin.ofNat 128 (i.val + 0) = i := Fin.ext (Nat.mod_eq_of_lt i.isLt)
    rw [chainFrom, List.range_succ_eq_map, List.filter_cons_of_pos (by simp), List.map_cons, here, List.filter_map,
      List.map_map]
    by_cases link : (s.descriptor i).chain = true ∧ i.val < 127
    · rw [dif_pos link, List.map_cons, ih]
      refine congrArg (List.cons _) ?_
      have moved (k : Nat) : i.val + 1 + k = i.val + k.succ := by omega
      have later (k : Nat) : (∀ j < k, (s.descriptor (Fin.ofNat 128 (i.val + 1 + j))).chain = true ∧
          i.val + 1 + j < 127) ↔ ∀ j < k.succ, (s.descriptor (Fin.ofNat 128 (i.val + j))).chain = true ∧
            i.val + j < 127 := by
        rw [Nat.forall_lt_succ_left, here]
        simp only [moved]
        exact (and_iff_right link).symm
      simp only [Function.comp_def, later]
      simp only [moved]
    · have unlinked (k : Nat) : ¬ ∀ j < k.succ, (s.descriptor (Fin.ofNat 128 (i.val + j))).chain = true ∧
          i.val + j < 127 := fun h => by
        have first := h 0 k.succ_pos
        rw [here] at first
        exact link first
      have ended : (List.range room).filter (fun k => decide (∀ j < k.succ,
          (s.descriptor (Fin.ofNat 128 (i.val + j))).chain = true ∧ i.val + j < 127)) = [] := by
        rw [List.filter_eq_nil_iff]
        exact fun k _ => by simpa using unlinked k
      rw [dif_neg link]
      simp only [Function.comp_def, ended, List.map_nil, List.map_cons]

/-- The chain at a vector holds the descriptors that the statements name. -/
theorem chainSteps_eq (s : State) (vector : DescriptorId) : chainSteps s vector = Claims.chain s vector :=
  chainFrom_eq s 4 vector

/-! ### The walk over the chain (R140, R141) -/

/-- The record without what the walk over a chain writes. -/
def Station.unmeasured (r : Station) : Station := { r with estimate := .zero, coefficients := none }

theorem timingStep_unmeasured (d : Descriptor) (p : Report) (w : Walk) :
    (timingStep d p w).record.unmeasured = w.record.unmeasured := by
  unfold timingStep; split <;> rfl

theorem powerStep_unmeasured (d : Descriptor) (p : Report) (w : Walk) :
    (powerStep d p w).record.unmeasured = w.record.unmeasured := by
  unfold powerStep; split <;> rfl

theorem frequencyStep_unmeasured (d : Descriptor) (p : Report) (w : Walk) :
    (frequencyStep d p w).record.unmeasured = w.record.unmeasured := by
  unfold frequencyStep; split <;> rfl

theorem coefficientStep_unmeasured (d : Descriptor) (p : Report) (w : Walk) :
    (coefficientStep d p w).record.unmeasured = w.record.unmeasured := by
  unfold coefficientStep
  split
  · dsimp only
    split
    · rfl
    · split <;> rfl
  · rfl

theorem chainStep_unmeasured (p : Report) (w : Walk) (d : Descriptor) :
    (chainStep p w d).record.unmeasured = w.record.unmeasured := by
  rw [chainStep, coefficientStep_unmeasured, frequencyStep_unmeasured, powerStep_unmeasured, timingStep_unmeasured]

theorem timingStep_within (d : Descriptor) (p : Report) (w : Walk) : (timingStep d p w).within = true ↔
    w.within = true ∧ (d.mask.timing = true → (Claims.forcedTiming (w.record.advertised.timing + p.errors.timing) -
      w.record.advertised.timing).natAbs ≤ d.timingThreshold) := by
  unfold timingStep
  cases d.mask.timing <;> simp [withinThreshold, clampTiming_eq]

theorem powerStep_within (d : Descriptor) (p : Report) (w : Walk) : (powerStep d p w).within = true ↔
    w.within = true ∧ (d.mask.power = true → (Claims.forcedPower (w.record.advertised.power + p.errors.power) -
      w.record.advertised.power).natAbs ≤ d.powerThreshold) := by
  unfold powerStep
  cases d.mask.power <;> simp [withinThreshold, clampPower_eq]

theorem frequencyStep_within (d : Descriptor) (p : Report) (w : Walk) : (frequencyStep d p w).within = true ↔
    w.within = true ∧ (d.mask.frequency = true →
      (Claims.forcedFrequency (w.record.advertised.frequency + p.errors.frequency) -
        w.record.advertised.frequency).natAbs ≤ d.frequencyThreshold) := by
  unfold frequencyStep
  cases d.mask.frequency <;> simp [withinThreshold, clampFrequency_eq]

/-- The walk stands on the record `r`: it has written nothing but estimates and the set, and the result of a write-back
it has made is whether it could be made (R110). -/
structure WalkOn (p : Report) (r : Station) (w : Walk) : Prop where
  record : w.record.unmeasured = r.unmeasured
  writeBack : ∀ b, w.writeBack = some b → (b = true ↔ Claims.writtenBack p r)

theorem WalkOn.advertised {p : Report} {r : Station} {w : Walk} (h : WalkOn p r w) :
    w.record.advertised = r.advertised :=
  show w.record.unmeasured.advertised = r.unmeasured.advertised by rw [h.record]

theorem WalkOn.generation {p : Report} {r : Station} {w : Walk} (h : WalkOn p r w) :
    w.record.generation = r.generation :=
  show w.record.unmeasured.generation = r.unmeasured.generation by rw [h.record]

theorem writeBackSet_isSome (p : Report) (r : Station) :
    (writeBackSet p r).isSome = true ↔ Claims.writtenBack p r := by
  unfold writeBackSet Claims.writtenBack
  by_cases h : r.generation = p.generation <;> simp [h, Option.isSome_iff_ne_none]

theorem writtenBack_congr {p : Report} {r r' : Station} (h : r'.generation = r.generation) :
    Claims.writtenBack p r' ↔ Claims.writtenBack p r := by
  rw [Claims.writtenBack, Claims.writtenBack, h]

/-- The COEFFICIENTS quantity: it is within where the set has been or is written back and the passes left no mark. -/
theorem coefficientStep_on {p : Report} {r : Station} {w : Walk} (h : WalkOn p r w) (d : Descriptor) :
    WalkOn p r (coefficientStep d p w) ∧ ((coefficientStep d p w).within = true ↔ w.within = true ∧
      (d.mask.coefficients = true → Claims.writtenBack p r ∧ p.allPasses = true ∧ p.saturated = false)) := by
  have kept := (coefficientStep_unmeasured d p w).trans h.record
  have made : (writeBackSet p w.record).isSome = true ↔ Claims.writtenBack p r :=
    (writeBackSet_isSome p w.record).trans (writtenBack_congr h.generation)
  unfold coefficientStep at kept ⊢
  cases masked : d.mask.coefficients with
  | false => simpa using h
  | true =>
    rw [masked] at kept
    simp only [if_true] at kept ⊢
    cases stored : w.writeBack with
    | some written =>
      have result := h.writeBack written stored
      exact ⟨⟨h.record, fun b hb => h.writeBack b (stored.trans hb)⟩, by simp [← result]⟩
    | none =>
      rw [stored] at kept
      cases set : writeBackSet p w.record with
      | some x =>
        rw [set] at made kept
        have written : Claims.writtenBack p r := made.mp rfl
        exact ⟨⟨kept, by simp [written]⟩, by simp [written]⟩
      | none =>
        rw [set] at made kept
        have unwritten : ¬ Claims.writtenBack p r := fun h => by simpa using made.mpr h
        exact ⟨⟨kept, by simp [unwritten]⟩, by simp [unwritten]⟩

theorem WalkOn.timingStep {p : Report} {r : Station} {w : Walk} (h : WalkOn p r w) (d : Descriptor) :
    WalkOn p r (timingStep d p w) :=
  ⟨(timingStep_unmeasured d p w).trans h.record, by unfold Machine.timingStep; split <;> exact h.writeBack⟩

theorem WalkOn.powerStep {p : Report} {r : Station} {w : Walk} (h : WalkOn p r w) (d : Descriptor) :
    WalkOn p r (powerStep d p w) :=
  ⟨(powerStep_unmeasured d p w).trans h.record, by unfold Machine.powerStep; split <;> exact h.writeBack⟩

theorem WalkOn.frequencyStep {p : Report} {r : Station} {w : Walk} (h : WalkOn p r w) (d : Descriptor) :
    WalkOn p r (frequencyStep d p w) :=
  ⟨(frequencyStep_unmeasured d p w).trans h.record, by unfold Machine.frequencyStep; split <;> exact h.writeBack⟩

/-- A step keeps the walk on its record, and is within exactly when every quantity it names is. -/
theorem chainStep_on {p : Report} {r : Station} {w : Walk} (h : WalkOn p r w) (d : Descriptor) :
    WalkOn p r (chainStep p w d) ∧
      ((chainStep p w d).within = true ↔ w.within = true ∧ Claims.stepWithin p r d) := by
  have h1 := h.timingStep d
  have h2 := h1.powerStep d
  have h3 := h2.frequencyStep d
  obtain ⟨on, within⟩ := coefficientStep_on h3 d
  refine ⟨on, within.trans ?_⟩
  rw [frequencyStep_within, powerStep_within, timingStep_within, h2.advertised, h1.advertised, h.advertised,
    Claims.stepWithin]
  simp only [and_assoc]

theorem foldl_chainStep_on {p : Report} {r : Station} (steps : List Descriptor) {w : Walk} (h : WalkOn p r w) :
    WalkOn p r (steps.foldl (chainStep p) w) ∧ ((steps.foldl (chainStep p) w).within = true ↔
      w.within = true ∧ ∀ d ∈ steps, Claims.stepWithin p r d) := by
  induction steps generalizing w with
  | nil => exact ⟨h, by simp⟩
  | cons d rest ih =>
    obtain ⟨on, within⟩ := chainStep_on h d
    obtain ⟨onAll, withinAll⟩ := ih on
    exact ⟨onAll, by rw [List.foldl_cons, withinAll, within, List.forall_mem_cons, and_assoc]⟩

/-- The walk over a chain stands on its record, and is within exactly when every step is (R142). -/
theorem walkChain_on (p : Report) (r : Station) (steps : List Descriptor) : WalkOn p r (walkChain p r steps) ∧
    ((walkChain p r steps).within = true ↔ ∀ d ∈ steps, Claims.stepWithin p r d) := by
  obtain ⟨on, within⟩ := foldl_chainStep_on steps (w := ⟨r, true, none⟩) ⟨rfl, nofun⟩
  exact ⟨on, within.trans (by simp)⟩

end Sys2Proof.Machine
end

section
/-! A maintenance completion on an armed programme: how the run is counted, the record moved, and the outcome told. -/

namespace Sys2Proof.Machine

/-! ### Attention joins a record (R12) -/

/-- What stands after a kind has joined a record where a condition holds. -/
theorem addAttentionIf_eq (b : Bool) (i : Slot) (k : AttentionKind) (s : State) : addAttentionIf b i k s =
    { s.setStation i { s.station i with
        attention := (s.station i).attention.put ((s.station i).attention.has k || b) k } with
      counts := s.counts.put (s.counts.get k + if b ∧ (s.station i).attention.has k = false then 1 else 0) k } := by
  have putHas (a : Attention) : a.put (a.has k) k = a := by cases k <;> rfl
  have putGet (n : AttentionCounts) : n.put (n.get k) k = n := by cases k <;> rfl
  have unchanged : s = { s.setStation i { s.station i with
      attention := (s.station i).attention.put ((s.station i).attention.has k) k } with
      counts := s.counts.put (s.counts.get k) k } := by
    rw [putHas, putGet, setStation_self]
  unfold addAttentionIf addAttention
  cases b with
  | false => simpa using unchanged
  | true =>
    cases has : (s.station i).attention.has k with
    | true => rw [has] at unchanged; simpa [has] using unchanged
    | false => simp [has]

/-- PROGRAMME-DONE and then SATURATED join a record just written, each where its condition holds. -/
theorem marked_eq (done saturated : Bool) (i : Slot) (x : Station) (s : State) :
    addAttentionIf saturated i .saturated (addAttentionIf done i .programmeDone (s.setStation i x)) =
      { s.setStation i { x with attention := ⟨x.attention.staleNew, x.attention.programmeDone || done,
          x.attention.saturated || saturated⟩ } with
        counts := {
          staleNew := s.counts.staleNew
          programmeDone := s.counts.programmeDone + (if done ∧ x.attention.programmeDone = false then 1 else 0)
          saturated := s.counts.saturated + (if saturated ∧ x.attention.saturated = false then 1 else 0) } } := by
  rw [addAttentionIf_eq done, station_setStation_same, addAttentionIf_eq saturated, station_with_counts,
    station_setStation_same]
  simp only [State.setStation, Vector.set_set]
  rfl

/-! ### Counting (R143, R144) -/

theorem countRun_more {d : Descriptor} {r : Station} (v : Verdict) (h : 2 ≤ r.remaining) :
    countRun d r v = ⟨{ r with remaining := r.remaining - 1 }, v, false⟩ :=
  if_pos (show 1 ≤ r.remaining - 1 by omega)

theorem countRun_last {d : Descriptor} {r : Station} (v : Verdict) (h : r.remaining = 1) :
    countRun d r v = match d.mode with
      | .once => ⟨{ r with armed := false, remaining := 0 }, dropVerdict r v, true⟩
      | .repeating => ⟨{ r with remaining := d.count }, v, d.noticeOnRepeat⟩ :=
  if_neg (show ¬ 1 ≤ r.remaining - 1 by omega)

/-- The record without what the walk and the count write. -/
def Station.unrun (r : Station) : Station := { r.unmeasured with armed := false, remaining := 0 }

/-- What counting a run with the verdict `v` against a record's programme leaves (R143, R144). -/
structure CountedAs (d : Descriptor) (r : Station) (v : Verdict) (c : Counted) : Prop where
  verdict : c.verdict = v
  done : c.done = decide (r.remaining = 1 ∧ (d.mode = .once ∨ d.noticeOnRepeat = true))
  record : c.record.unrun = r.unrun
  more : 2 ≤ r.remaining → c.record.armed = true ∧ c.record.remaining = r.remaining - 1
  once : r.remaining = 1 → d.mode = .once → c.record.armed = false ∧ c.record.remaining = 0
  repeating : r.remaining = 1 → d.mode = .repeating → c.record.armed = true ∧ c.record.remaining = d.count

/-- The run of a walk over an armed programme's chain is counted, its verdict made of whether all was within and of the
programme's end (R142, R143). -/
theorem countRun_countedAs {p : Report} {r : Station} {w : Walk} (on : WalkOn p r w) (d : Descriptor) {v : Verdict}
    (armed : r.armed = true) (running : 1 ≤ r.remaining) (settled : w.within = true → v = .settled)
    (unsettled : ¬ w.within = true → v = if r.remaining = 1 ∧ d.mode = .once ∧
      (r.state = .training ∨ (r.state = .stale ∧ r.stepClass = .coarse)) then .drop else .adjust) :
    CountedAs d r v (countRun d w.record (runVerdict w.within)) := by
  have same {α : Type} (item : Station → α) : item w.record.unmeasured = item r.unmeasured := congrArg item on.record
  have unrun : w.record.unrun = r.unrun := same fun x => { x with armed := false, remaining := 0 }
  have armedW : w.record.armed = true := (same Station.armed).trans armed
  have remaining : w.record.remaining = r.remaining := same Station.remaining
  have stateW : w.record.state = r.state := same Station.state
  have classW : w.record.stepClass = r.stepClass := same Station.stepClass
  have ran : runVerdict w.within = .settled ∧ v = .settled ∨ runVerdict w.within = .adjust ∧
      v = if r.remaining = 1 ∧ d.mode = .once ∧ (r.state = .training ∨ (r.state = .stale ∧ r.stepClass = .coarse))
        then .drop else .adjust := by
    by_cases h : w.within = true
    · exact .inl ⟨by rw [h]; rfl, settled h⟩
    · exact .inr ⟨by simp [runVerdict, h], unsettled h⟩
  by_cases last : r.remaining = 1
  · rw [countRun_last _ (remaining.trans last)]
    cases mode : d.mode with
    | once =>
      refine ⟨?_, by simp [last, mode], unrun, by omega, fun _ _ => ⟨rfl, rfl⟩, by simp [mode]⟩
      rcases ran with ⟨run, rfl⟩ | ⟨run, rfl⟩ <;> simp [run, dropVerdict, last, mode, stateW, classW]
    | repeating =>
      refine ⟨?_, by simp [last, mode], unrun, by omega, by simp [mode], fun _ _ => ⟨armedW, rfl⟩⟩
      rcases ran with ⟨run, rfl⟩ | ⟨run, rfl⟩ <;> simp [run, mode]
  · have more : 2 ≤ r.remaining := by omega
    rw [countRun_more _ (by omega)]
    refine ⟨?_, by simp [last], unrun, fun _ => ⟨armedW, by rw [remaining]⟩, fun h => absurd h last,
      fun h => absurd h last⟩
    rcases ran with ⟨run, rfl⟩ | ⟨run, rfl⟩ <;> simp [run, last]

/-! ### The move of the record (R145) -/

/-- The record without what its move writes. -/
def Station.unmoved (r : Station) : Station := { r with state := .free, stepClass := .coarse }

theorem moveRecord_unmoved (b : Bool) (v : Verdict) (r : Station) : (moveRecord b v r).unmoved = r.unmoved := by
  unfold moveRecord
  repeat' first | split | rfl

theorem moveRecord_state (b : Bool) (v : Verdict) (r : Station) : (moveRecord b v r).state =
    match r.state with
    | .training => if b = false ∧ v = .settled then .locked else .training
    | .locked => if b then .training else .locked
    | .stale => .stale
    | .free => .free
    | .retiring => .retiring := by
  unfold moveRecord
  cases h : r.state with
  | training => cases b <;> by_cases hv : v = .settled <;> simp [h, hv]
  | locked => cases b <;> simp [h]
  | stale => cases b <;> by_cases hv : v = .settled <;> simp [h, hv]
  | free => exact h
  | retiring => exact h

/-- A clean run that settles nothing new leaves the step class (R8, R145). -/
theorem moveRecord_stepClass_kept {v : Verdict} {r : Station} (h : v ≠ .settled ∨ r.state = .locked) :
    (moveRecord false v r).stepClass = r.stepClass := by
  unfold moveRecord
  rcases h with hv | hs
  · cases r.state <;> simp [hv]
  · rw [hs]; rfl

/-! ### The completion (R139 to R146) -/

theorem exportsSet_iff (steps : List Descriptor) :
    exportsSet steps = true ↔ ∃ d ∈ steps, d.exportSet = true ∧ d.mask.coefficients = true := by
  simp [exportsSet]

/-- The record that a completion tells of, made of the counted one `c`: moved by the mark and the verdict, with
the verdict and the wish to hand its set on written, and the attention joined (R144 to R146). -/
def toldRecord (p : Report) (v : Verdict) (done : Bool) (steps : List Descriptor) (c : Station) : Station :=
  { moveRecord p.saturated v c with
    lastVerdict := v
    exportWanted := exportsSet steps
    attention := ⟨c.attention.staleNew, c.attention.programmeDone || done, c.attention.saturated || p.saturated⟩ }

/-- What counting leaves of an armed completion, before the record is moved and told of. -/
def completedRun (s : State) (p : Report) : Counted :=
  countRun (s.descriptor (s.station p.slot).vector)
    (walkChain p (s.station p.slot) (chainSteps s (s.station p.slot).vector)).record
    (runVerdict (walkChain p (s.station p.slot) (chainSteps s (s.station p.slot).vector)).within)

theorem completedRun_countedAs {p : Report} {s : State} {v : Verdict} (armed : (s.station p.slot).armed = true)
    (running : 1 ≤ (s.station p.slot).remaining)
    (settled : (∀ d ∈ Claims.chain s (s.station p.slot).vector, Claims.stepWithin p (s.station p.slot) d) →
      v = .settled)
    (unsettled : ¬ (∀ d ∈ Claims.chain s (s.station p.slot).vector, Claims.stepWithin p (s.station p.slot) d) →
      v = if (s.station p.slot).remaining = 1 ∧ (s.descriptor (s.station p.slot).vector).mode = .once ∧
          ((s.station p.slot).state = .training ∨
            ((s.station p.slot).state = .stale ∧ (s.station p.slot).stepClass = .coarse)) then .drop else .adjust) :
    CountedAs (s.descriptor (s.station p.slot).vector) (s.station p.slot) v (completedRun s p) := by
  obtain ⟨on, within⟩ := walkChain_on p (s.station p.slot) (chainSteps s (s.station p.slot).vector)
  rw [← chainSteps_eq] at settled unsettled
  exact countRun_countedAs on _ armed running (fun h => settled (within.mp h)) fun h => unsettled fun h' => h (within.mpr h')

/-- An armed completion: the record told of is written with its attention counted, a wanted correction is requested for
it, and it is unbound. -/
theorem complete_told {p : Report} {s : State} {v : Verdict} (armed : (s.station p.slot).armed = true)
    (notRetiring : (s.station p.slot).state ≠ .retiring) (verdict : (completedRun s p).verdict = v)
    (record : (completedRun s p).record.unrun = (s.station p.slot).unrun) :
    let r := s.station p.slot
    let told := { s.setStation p.slot
        (toldRecord p v (completedRun s p).done (Claims.chain s (s.station p.slot).vector) (completedRun s p).record) with
      counts := {
        staleNew := s.counts.staleNew
        programmeDone := s.counts.programmeDone +
          (if (completedRun s p).done ∧ r.attention.programmeDone = false then 1 else 0)
        saturated := s.counts.saturated + (if p.saturated ∧ r.attention.saturated = false then 1 else 0) } }
    let asked := if v = .settled ∧ r.lastVerdict = .settled then told else requestCorrection p.slot told
    complete p s = asked.setStation p.slot { asked.station p.slot with binding := .none } := by
  rw [← chainSteps_eq]
  intro r told asked
  subst verdict
  have attention : (completedRecord s p).record.attention = (completedRun s p).record.attention :=
    (moveRecord_same p.saturated (completedRun s p).verdict (completedRun s p).record).attention
  have before : (completedRun s p).record.attention = r.attention :=
    show (completedRun s p).record.unrun.attention = r.unrun.attention by rw [record]
  have state : (completedRun s p).record.state = r.state :=
    show (completedRun s p).record.unrun.state = r.unrun.state by rw [record]
  have marked : addAttentionIf p.saturated p.slot .saturated (addAttentionIf (completedRecord s p).done p.slot
      .programmeDone (s.setStation p.slot (completedRecord s p).record)) = told := by
    rw [marked_eq, attention]
    simp only [told, ← before]
    rfl
  have wanted : (if correctionWanted (completedRecord s p).verdict r.lastVerdict then requestCorrection p.slot told
      else told) = asked := by
    have kept : (completedRecord s p).verdict = (completedRun s p).verdict := rfl
    by_cases same : (completedRun s p).verdict = .settled ∧ r.lastVerdict = .settled
    · simp [asked, correctionWanted, kept, same]
    · rw [if_pos (by simpa [correctionWanted, kept, imp_iff_not_or] using same)]
      exact (if_neg same).symm
  have written : told.station p.slot = toldRecord p (completedRun s p).verdict (completedRun s p).done
      (chainSteps s r.vector) (completedRun s p).record := station_setStation_same _ _ _
  have notMoved : (told.station p.slot).state ≠ .retiring := fun h => by
    rw [written] at h
    exact notRetiring (state.symm.trans ((moveRecord_same _ _ _).retiring h))
  have bound : (asked.station p.slot).state ≠ .retiring := by
    unfold asked
    split
    · exact notMoved
    · rw [(requestCorrection_identity p.slot told).state]; exact notMoved
  unfold complete
  dsimp only
  rw [if_pos armed, marked, wanted, unbind_of _ bound]

/-- Settles O30: the run counted, the record moved and told of, and the completion's frame, each by its lemma. -/
theorem completionDecidesVerdictAndMoves : Obligations.CompletionDecidesVerdictAndMoves := by
  intro p s v armed running notRetiring r first steps done settled unsettled
  have counted : CountedAs first r v (completedRun s p) := completedRun_countedAs armed running settled unsettled
  have told := complete_told armed notRetiring counted.verdict counted.record
  have before {α : Type} (item : Station → α) : item (completedRun s p).record.unrun = item r.unrun :=
    congrArg item counted.record
  have moved {α : Type} (item : Station → α) :
      item (moveRecord p.saturated v (completedRun s p).record).unmoved = item (completedRun s p).record.unmoved :=
    congrArg item (moveRecord_unmoved _ _ _)
  have stateBefore : (completedRun s p).record.state = r.state := before Station.state
  have state := moveRecord_state p.saturated v (completedRun s p).record
  rw [stateBefore] at state
  have stepClassAfter (served : r.state ≠ .free) : (moveRecord p.saturated v (completedRun s p).record).stepClass = _ :=
    moveRecord_stepClass p.saturated v (stateBefore ▸ served) (stateBefore ▸ notRetiring)
  rw [counted.done] at told
  refine ⟨toldRecord p v done steps (completedRun s p).record, told, ?attention, rfl, exportsSet_iff steps,
    fun h => ?more, fun h mode => ?once, fun h mode => ?repeating, fun h => ?training, fun h => ?locked, fun h => ?stale,
    fun served marked => ?coarse, fun training clean settled => ?fine, fun clean kept => ?kept,
    (moved Station.correction).trans (before Station.correction),
    (moved Station.reCorrect).trans (before Station.reCorrect), (moved Station.binding).trans (before Station.binding)⟩
  case attention =>
    rw [toldRecord, show (completedRun s p).record.attention = r.attention from before Station.attention]
  case more =>
    obtain ⟨armed, remaining⟩ := counted.more h
    exact ⟨(moved Station.armed).trans armed, (moved Station.remaining).trans remaining⟩
  case once =>
    obtain ⟨armed, remaining⟩ := counted.once h mode
    exact ⟨(moved Station.armed).trans armed, (moved Station.remaining).trans remaining⟩
  case repeating =>
    obtain ⟨armed, remaining⟩ := counted.repeating h mode
    exact ⟨(moved Station.armed).trans armed, (moved Station.remaining).trans remaining⟩
  case training => exact state.trans (by rw [h])
  case locked => exact state.trans (by rw [h])
  case stale => exact state.trans (by rw [h])
  case coarse => exact (stepClassAfter served).trans (if_pos marked)
  case fine =>
    have served : r.state ≠ .free := by rcases training with h | h <;> rw [h] <;> decide
    have unlocked : r.state ≠ .locked := by rcases training with h | h <;> rw [h] <;> decide
    refine (stepClassAfter served).trans ?_
    rw [clean, stateBefore]
    simp [settled, unlocked]
  case kept =>
    have unchanged := moveRecord_stepClass_kept (r := (completedRun s p).record) (stateBefore ▸ kept)
    rw [← clean] at unchanged
    exact unchanged.trans (before Station.stepClass)

end Sys2Proof.Machine
end

section
/-! Plant time: what every step keeps of the schedule, TICK, SYNC, and the requests on time (R29 to R33, R35, R36). -/

namespace Sys2Proof.Machine

/-! ### Every step keeps the schedule (R35, R36, R40, R45, R46, R54) -/

/-- Every operation behind the commands keeps each channel's maps, state and time points in agreement. -/
theorem scheduleAgrees_keptByOperations : KeptByOperations State.ScheduleAgrees where
  link _ _ h := h
  request i _ h := requestEffect_agrees h i
  partReset x _ := resetWith_agrees x
  tick _ h := takeRaised_agrees h maxRaised
  sync s h := by
    unfold sync
    split
    · exact h
    · exact h
  event x _ h := takeIfRaised_agrees h x
  detect c p s h := h.of_same (.of_frame (detect_frame c p s))
  preambleDone c s h := h.of_same (preambleDone_same c s)
  symbol c x r s h := h.of_same (symbol_same c x r s)
  claim c t v s h := h.of_same (.of_frame (claim_frame c t v s))
  burstEnd c p f s h := h.of_same (burstEnd_same c p f s)
  pass e s h _ := h.of_same (.of_frame (completePass_frame e s))

/-- Settles O58: bursts and engines touch no schedule, windows, maps and requests keep it, and the queue of commands has
no part in it. -/
theorem stepKeepsSchedule : Obligations.StepKeepsSchedule := fun _ _ h hs =>
  scheduleAgrees_keptByOperations.step (fun _ _ h => h) h hs

/-! ### TICK (R29) -/

/-- Where no time point of a channel stands reached, no event is raised. -/
theorem raisedEvents_nil {s : State} (h : ∀ c, (s.point c).opening ≠ some s.counter ∧
    (s.point c).close ≠ some s.counter ∧ (s.point c).grace ≠ some s.counter ∧ (s.point c).mapEnd ≠ some s.counter) :
    raisedEvents s = [] := by
  refine List.flatMap_eq_nil_iff.mpr fun c _ => ?_
  obtain ⟨opening, close, grace, mapEnd⟩ := h c
  simp [raisedOn, TimeEvent.raised, reached, opening, close, grace, mapEnd]

/-- Settles O4: the events taken first leave the counter alone, and none is taken where none is raised. -/
theorem tickAdvancesCounter : Obligations.TickAdvancesCounter := by
  refine ⟨fun s => ⟨tick s, rfl, ?_⟩, fun s h => ?_⟩
  · exact congrArg (· + 1) (takeRaised_frame maxRaised s).counter
  · refine congrArg Host.Outcome.next ?_
    rw [tick, takeRaised_none (raisedEvents_nil h)]

/-! ### TIME LOAD, SYNC and TIME READ (R31, R32, R33) -/

theorem allOff_iff (s : State) : allOff s = true ↔ ∀ c, (s.map c).state = .off := by
  simp [allOff, State.map, Fin.forall_iff]

/-- Settles O5: SYNC takes what pends, TIME LOAD asks whether all channels are OFF, TIME READ leaves the part alone. -/
theorem timeLoadPendsUntilSync : Obligations.TimeLoadPendsUntilSync := by
  refine ⟨fun s => ⟨fun pending => ?_, fun idle => ?_⟩, fun v s hs => ⟨fun off => ?_, fun c on => ?_⟩, fun s hs => ?_⟩
  · exact congrArg Host.Outcome.next (if_pos pending)
  · exact congrArg Host.Outcome.next (if_neg (by simp [idle]))
  · exact exec_accepted (Option.some_ne_none _) hs (if_pos ((allOff_iff s).mpr off))
  · exact exec_refused (Option.some_ne_none _) hs (if_neg fun off => on ((allOff_iff s).mp off c))
  · exact exec_accepted (Option.some_ne_none _) hs rfl

end Sys2Proof.Machine
end

section
/-! Windows and maps against the words of the statements: what `Claims.opens`, `Claims.tested` and `Claims.promoted` say
is what `openWindow`, the test of R36 and the promotion of a map do; then the time events, CHANNEL ON and the DETECTs
that bind no record. -/

namespace Sys2Proof.Machine

/-! ### A window opens (R37, R58, R59, R63) -/

/-- The truncation of a burst still in grace, its grace expiry point standing. -/
theorem truncate_grace (c : Channel) {w : Window} {s : State} (hs : (s.burst c).state = .grace)
    (hw : (s.burst c).window = some w) : truncate c s = Claims.truncated c w s := by
  have gone : endGrace c (endGrace c s) = endGrace c s := by simp [endGrace]
  rw [← truncate_endGrace c hs hw]
  unfold truncate
  dsimp only
  rw [show (endGrace c s).burst c = s.burst c from rfl, hs, hw, gone]

/-- A SID that the map does not name resolves to no slot (R59). -/
theorem resolveSid_unnamed {s : State} {v : Sid} (h : s.sidEntry v = none) (c : Channel) : resolveSid s c v = none := by
  unfold resolveSid
  rw [h]

/-- A SID that the map names resolves to its slot where the record is served on the channel (R59). -/
theorem resolveSid_named {s : State} {v : Sid} {i : Slot} (h : s.sidEntry v = some i) (c : Channel) :
    resolveSid s c v =
      if ((s.station i).state = .training ∨ (s.station i).state = .locked ∨ (s.station i).state = .stale) ∧
        (s.station i).channel = c then some i else none := by
  unfold resolveSid
  rw [h]
  simp only [Bool.and_eq_true, decide_eq_true_eq, RecordState.served_iff]

theorem resolveGrant_eq (s : State) (c : Channel) (g : Grant) : resolveGrant s c g = Claims.windowOf s c g := by
  unfold resolveGrant Claims.windowOf
  cases g.kind
  case initial => rfl
  all_goals
    cases h : s.sidEntry g.sid with
    | none => rw [resolveSid_unnamed h]; rfl
    | some i =>
      rw [resolveSid_named h]
      dsimp only
      split_ifs <;> rfl

/-- The burst `b` of a channel is truncated where it is still in grace. -/
def graceTruncated (c : Channel) (b : Burst) (s : State) : State :=
  match b.state, b.window with
  | .grace, some old => Claims.truncated c old s
  | _, _ => s

theorem truncate_eq (c : Channel) (s : State) : truncate c s = graceTruncated c (s.burst c) s := by
  unfold graceTruncated
  split
  · next w hs hw => exact truncate_grace c hs hw
  · next windowless =>
    unfold truncate
    dsimp only
    split
    · next w hs hw => exact (windowless w hs hw).elim
    · rfl

theorem openWindow_eq (c : Channel) (g : Grant) (s : State) : openWindow c g s = Claims.opens c g s := by
  simp only [openWindow, resolveGrant_eq, truncate_eq]
  rfl

/-! ### The test of R36 -/

theorem waitingGrant_open {s : State} {c : Channel} (h : (s.point c).close ≠ none) : waitingGrant s c = none := by
  unfold waitingGrant
  rw [if_pos (Option.isSome_iff_ne_none.mpr h)]

theorem waitingGrant_closed {s : State} {c : Channel} (h : (s.point c).close = none) :
    waitingGrant s c = Claims.nextGrant (s.map c) := by
  unfold waitingGrant
  rw [h]
  rfl

theorem testOpening_eq (c : Channel) (s : State) : testOpening c s = Claims.tested c s := by
  unfold Claims.tested testOpening openingNow setOpening
  cases hc : (s.point c).close with
  | some close => rw [waitingGrant_open (by simp [hc])]
  | none =>
    rw [waitingGrant_closed hc]
    cases hg : Claims.nextGrant (s.map c) with
    | none => rfl
    | some g =>
      dsimp only
      by_cases due : Claims.atOrBefore (g.start - BitVec.ofNat 32 s.windowLead) s.counter
      · have : openingDue s g = true := decide_eq_true due
        rw [if_pos due, if_pos this]
        exact openWindow_eq c g s
      · have : ¬ openingDue s g = true := fun h => due (of_decide_eq_true h)
        simp only [due, this, if_false]
        rfl

/-! ### Time events (R36 to R40, R54) -/

/-- An event the Time Base has raised is taken. -/
theorem takeIfRaised_raised {x : TimeEvent} {s : State} (h : x.raised s = true) : takeIfRaised x s = x.take s :=
  if_pos h

/-- Settles O7: the next grant waits with no window open, and its window opens. -/
theorem windowOpensAtOpeningPoint : Obligations.WindowOpensAtOpeningPoint := by
  intro c s g hp hc hg
  have raised : TimeEvent.raised s (.windowOpen c) = true := by simp [TimeEvent.raised, reached, hp]
  have opened : openReached c s = Claims.opens c g s := by
    unfold openReached
    rw [waitingGrant_closed hc, hg]
    exact openWindow_eq c g s
  exact congrArg Host.Outcome.next ((takeIfRaised_raised raised).trans opened)

/-- The close of a window whose close point is reached. -/
theorem exec_windowClose {c : Channel} {s : State} (hp : (s.point c).close = some s.counter) :
    exec (.windowClose c) s = .next (Claims.tested c
      (sequencerClose c s.counter (s.setPoint c { s.point c with close := none }))) := by
  have raised : TimeEvent.raised s (.windowClose c) = true := by simp [TimeEvent.raised, reached, hp]
  rw [← testOpening_eq]
  exact congrArg Host.Outcome.next (takeIfRaised_raised raised)

/-- A burst whose window closes goes into grace, for 64 ticks from the close point (R39). -/
theorem sequencerClose_burst {c : Channel} {s : State} (h : (s.burst c).state = .waiting ∨ (s.burst c).state = .live)
    (close : Tick) : sequencerClose c close s =
      (s.setBurst c { s.burst c with state := .grace }).setPoint c { s.point c with grace := some (close + 64) } := by
  unfold sequencerClose
  rcases h with h | h <;> simp only [h]

/-- An unused MAINT window costs the record that is still its station a miss (R81). -/
theorem missUnused_of {c : Channel} {w : Window} {i : Slot} {s : State} (hw : (s.burst c).window = some w)
    (h : Claims.unusedMaint c w i s) : missUnused c (s.burst c) s = countMiss i s := by
  have station : stationMatches s i w.sid c = true := by
    simp [stationMatches, (RecordState.served_iff _).mpr h.served, h.sid, h.channel]
  unfold missUnused
  simp only [hw, h.kind, h.slot, h.grant, h.used, station, decide_true, Bool.not_false, Bool.and_self, if_true]

/-- Any other window costs no miss (R81). -/
theorem missUnused_none {c : Channel} {w : Window} {s : State} (hw : (s.burst c).window = some w)
    (h : ∀ i, ¬ Claims.unusedMaint c w i s) : missUnused c (s.burst c) s = s := by
  unfold missUnused
  rw [hw]
  dsimp only
  split
  · next i hk hi =>
    refine if_neg fun counted => h i ?_
    simp only [stationMatches, Bool.and_eq_true, Bool.not_eq_true', decide_eq_true_eq] at counted
    obtain ⟨⟨grant, used⟩, ⟨served, sid⟩, channel⟩ := counted
    exact ⟨hk, grant, hi, used, (RecordState.served_iff _).mp served, sid, channel⟩
  · rfl

/-- An OPEN sequencer closes its window, after the miss that the window may cost (R38, R81). -/
theorem sequencerClose_opened {c : Channel} {s : State} (h : (s.burst c).state = .opened) (close : Tick) :
    sequencerClose c close s =
      (missUnused c (s.burst c) s).setBurst c { s.burst c with state := .closed, window := none } := by
  unfold sequencerClose
  simp only [h]

/-- A CLOSED sequencer lets its void window go (R38). -/
theorem sequencerClose_void {c : Channel} {s : State} (h : (s.burst c).state = .closed) (close : Tick) :
    sequencerClose c close s = s.setBurst c { s.burst c with state := .closed, window := none } := by
  unfold sequencerClose
  simp only [h]

/-- Settles O8: what the close does at the sequencer by its state, and then the test of R36. -/
theorem windowCloseGivesGraceOrClosesWindow : Obligations.WindowCloseGivesGraceOrClosesWindow := by
  refine ⟨fun c s hp busy => ?_, ?_⟩
  · rw [exec_windowClose hp, sequencerClose_burst (by exact busy)]
    simp only [setBurst_setPoint, setPoint_setPoint, point_setPoint_same, setPoint_burst]
  intro c s w hp hw closed
  refine ⟨fun i opened unused => ?_, fun idle => ?_⟩
  · have missed : missUnused c (s.burst c) (s.setPoint c { s.point c with close := none }) =
        countMiss i (s.setPoint c { s.point c with close := none }) :=
      missUnused_of (s := s.setPoint c _) hw { unused with }
    rw [exec_windowClose hp, sequencerClose_opened (by exact opened), setPoint_burst, missed, countMiss_setPoint]
    rfl
  · rw [exec_windowClose hp]
    rcases idle with void | ⟨opened, plain⟩
    · rw [sequencerClose_void (by exact void)]
      rfl
    · have kept : missUnused c (s.burst c) (s.setPoint c { s.point c with close := none }) =
          s.setPoint c { s.point c with close := none } :=
        missUnused_none (s := s.setPoint c _) hw fun i unused => plain i { unused with }
      rw [sequencerClose_opened (by exact opened), setPoint_burst, kept]
      rfl

/-! ### Promotion (R53, R54, R121) -/

theorem promote_eq (c : Channel) (m : BurstMap) (s : State) : promote c m s = Claims.promoted c m s := by
  unfold promote Claims.promoted
  rw [testOpening_eq]
  simp only [List.isEmpty_iff]

theorem openWindow_probes (c : Channel) (g : Grant) (s : State) : (openWindow c g s).probes = s.probes :=
  (truncate_frame c _).probes

theorem promote_probes (c : Channel) (m : BurstMap) (s : State) : (promote c m s).probes = s.probes := by
  unfold promote testOpening
  split
  · exact openWindow_probes _ _ _
  · rfl

/-- Aging the probes of a channel: those past the lifetime leave, the others of the channel are one older (R121). -/
theorem filterMap_ageProbe (lifetime : Nat) (c : Channel) (probes : List Probe) :
    probes.filterMap (ageProbe lifetime c) =
      (probes.filter fun p => p.channel ≠ c ∨ p.age + 1 ≤ lifetime).map fun p =>
        if p.channel = c then { p with age := p.age + 1 } else p := by
  induction probes with
  | nil => rfl
  | cons p rest ih =>
    by_cases here : p.channel = c
    · by_cases young : p.age < lifetime
      · simp [ageProbe, here, young, ih]
      · simp [ageProbe, here, young, ih]
    · simp [ageProbe, here, ih]

/-- The aging of the probes, told of an earlier state with the same probes and probe lifetime. -/
theorem ageProbes_eq (c : Channel) {s t : State} (lifetime : t.probeLifetime = s.probeLifetime)
    (probes : t.probes = s.probes) : ageProbes c t =
      { t with
        probes := (s.probes.filter fun p => p.channel ≠ c ∨ p.age + 1 ≤ s.probeLifetime).map fun p =>
          if p.channel = c then { p with age := p.age + 1 } else p } := by
  rw [ageProbes, filterMap_ageProbe, ← lifetime, ← probes]

/-- Settles O11: the map end is taken by the pending map, and a promotion ages the probes as they stood. -/
theorem mapEndPromotesOrStarves : Obligations.MapEndPromotesOrStarves := by
  have taken {c : Channel} {s : State} (hp : (s.point c).mapEnd = some s.counter) :
      exec (.mapEnd c) s = .next (reachMapEnd c s) := by
    have raised : TimeEvent.raised s (.mapEnd c) = true := by simp [TimeEvent.raised, reached, hp]
    exact congrArg Host.Outcome.next (takeIfRaised_raised raised)
  refine ⟨fun c s hp unready => ?_, fun c s m hp ready => ?_⟩
  · rw [taken hp, reachMapEnd]
    cases hm : (s.map c).pendingMap with
    | ready m => exact absurd hm (unready m)
    | building m => rfl
    | empty => rfl
  · rw [taken hp, reachMapEnd, ready]
    dsimp only
    rw [ageProbes_eq c (promote_frame c m s).probeLifetime (promote_probes c m s), promote_eq]

/-! ### CHANNEL ON (R56) -/

theorem withChannel_named {v : Byte} {c : Channel} (h : v.toNat = c.val) (act : Channel → State → Reply × State)
    (s : State) : withChannel v act s = act c s := by
  simp only [withChannel, readChannel_of h]

/-- A promotion leaves nothing of what the channel's map state was. -/
theorem promote_setMap (c : Channel) (m : BurstMap) (s : State) (x : ChannelMap) :
    promote c m (s.setMap c x) = promote c m s := by
  unfold promote
  rw [setMap_setMap]
  rfl

theorem openWindow_maps (c : Channel) (g : Grant) (s : State) :
    (openWindow c g s).maps = (s.setMap c { s.map c with position := nextPosition (s.map c) }).maps :=
  (truncate_frame c _).maps

theorem openWindow_map_same (c : Channel) (g : Grant) (s : State) :
    (openWindow c g s).map c = { s.map c with position := nextPosition (s.map c) } := by
  rw [State.map, openWindow_maps]
  exact map_setMap_same s c _

theorem testOpening_mapState (c : Channel) (s : State) : ((testOpening c s).map c).state = (s.map c).state := by
  unfold testOpening
  split
  · rw [openWindow_map_same]
  · rfl

theorem promote_mapState (c : Channel) (m : BurstMap) (s : State) : ((promote c m s).map c).state = .running := by
  unfold promote
  rw [testOpening_mapState, setPoint_map, map_setMap_same]

theorem withinReach_iff (s : State) (start : Tick) : withinReach s start = true ↔ (start - s.counter).toNat ≤ 2 ^ 30 :=
  decide_eq_true_iff

theorem onReply_eq {c : Channel} {u : State} {x : ChannelState} (h : (u.map c).state = x) (discarded : Bool) :
    onReply c discarded u = accept [channelStateByte x, byteOfBool discarded] u := by
  rw [onReply, h]

theorem onReply_setMap (c : Channel) (discarded : Bool) (s : State) (x : ChannelMap) :
    onReply c discarded (s.setMap c x) = accept [channelStateByte x.state, byteOfBool discarded] (s.setMap c x) :=
  onReply_eq (congrArg ChannelMap.state (map_setMap_same s c x)) discarded

/-- Settles O51: the two checks, and then the READY map, if there is one, by its reach. -/
theorem channelOnStarvesOrPromotes : Obligations.ChannelOnStarvesOrPromotes := by
  intro ch c s hs hc
  refine ⟨fun pending => exec_refused (Option.some_ne_none _) hs ?_,
    fun idle on => exec_refused (Option.some_ne_none _) hs ?_,
    fun idle off => ⟨fun unready => exec_accepted (Option.some_ne_none _) hs ?_,
      fun m ready far => exec_accepted (Option.some_ne_none _) hs ?_,
      fun m ready near => exec_accepted (Option.some_ne_none _) hs ?_⟩⟩
  all_goals simp only [requestEffect, channelOnRequest, withChannel_named hc]
  · rw [if_pos pending]
  · rw [if_neg (by simp [idle]), if_pos on]
  · rw [if_neg (by simp [idle]), if_neg (by simp [off])]
    cases hm : (s.map c).pendingMap with
    | ready m => exact (unready m hm).elim
    | building m => exact onReply_setMap c false s _
    | empty => exact onReply_setMap c false s _
  · have unreached : ¬ withinReach s m.start = true := fun h => by have := (withinReach_iff s _).mp h; omega
    rw [if_neg (by simp [idle]), if_neg (by simp [off]), ready]
    dsimp only
    rw [if_neg unreached, setPending, map_setMap_same, setMap_setMap]
    exact onReply_setMap c true s _
  · rw [if_neg (by simp [idle]), if_neg (by simp [off]), ready]
    dsimp only
    rw [if_pos ((withinReach_iff s _).mpr near), promote_setMap, onReply_eq (promote_mapState c m s), promote_eq]
    rfl

/-! ### DETECTs that bind no record (R38, R64, R65, R66) -/

/-- Away from the close point a DETECT goes by the sequencer state. -/
theorem detect_inside {c : Channel} {s : State} (h : (s.point c).close ≠ some s.counter) (phase : BitVec 6) :
    detect c phase s = detectByState c phase s :=
  if_neg (by simp [closeReached, h])

/-- At the close point every DETECT is ignored. -/
theorem detect_atClose {c : Channel} {s : State} (h : (s.point c).close = some s.counter) (phase : BitVec 6) :
    detect c phase s = s :=
  if_pos (by simp [closeReached, h])

/-- A DETECT that the sequencer state ignores is ignored. -/
theorem detect_ignored {c : Channel} {phase : BitVec 6} {s : State} (h : detectByState c phase s = s) :
    detect c phase s = s := by
  by_cases hp : (s.point c).close = some s.counter
  · exact detect_atClose hp phase
  · exact (detect_inside hp phase).trans h

theorem detectByState_opened {c : Channel} {w : Window} {s : State} (hs : (s.burst c).state = .opened)
    (hw : (s.burst c).window = some w) (phase : BitVec 6) : detectByState c phase s = detectOpen c w phase s := by
  unfold detectByState
  simp only [hs, hw]

/-- The record in a slot is not the station of a window (R17). -/
theorem stationMatches_false {s : State} {i : Slot} {v : Sid} {c : Channel} (h : (s.station i).state = .free ∨
    (s.station i).state = .retiring ∨ (s.station i).sid ≠ v ∨ (s.station i).channel ≠ c) :
    stationMatches s i v c = false := by
  unfold stationMatches
  rcases h with h | h | h | h <;> simp [h, RecordState.served]

/-- Settles O13: the close point is asked first, then the sequencer state, then the window. -/
theorem otherDetectsStartContentionDisturbOrAreIgnored :
    Obligations.OtherDetectsStartContentionDisturbOrAreIgnored := by
  refine ⟨fun c phase s w hp hs hw hk => congrArg Host.Outcome.next ?_, fun c phase s =>
    ⟨fun hp busy => congrArg Host.Outcome.next ?_, fun hp => congrArg Host.Outcome.next (detect_atClose hp phase),
      fun past => congrArg Host.Outcome.next (detect_ignored ?_),
      fun w hs hw hk spent => congrArg Host.Outcome.next (detect_ignored ?_)⟩⟩
  · rw [detect_inside hp, detectByState_opened hs hw, detectOpen, hk]
    simp only [beginContention, Burst.started, hw]
  · rw [detect_inside hp, detectByState]
    rcases busy with h | h <;> simp only [h]
  · rw [detectByState]
    rcases past with h | h <;> simp only [h]
  · rw [detectByState_opened hs hw, detectOpen, hk]
    rcases spent with used | ⟨i, hi, other⟩
    · simp only [used, Bool.not_true, Bool.false_and, Bool.false_eq_true, if_false]
      split <;> rfl
    · simp only [hi, stationMatches_false other, Bool.and_false, Bool.false_eq_true, if_false]

end Sys2Proof.Machine
end

section
/-! SET PARAMETER with a new window lead: the windows that it makes due open one after another, in some order. Writes to
the time points of other channels and to the count of free choices pass through the opening of a window, so the opening
points set before the windows open are those the test of R36 sets channel by channel (R34, R36, log entries 5 and 18). -/

namespace Sys2Proof.Machine

/-! ### The time points of other channels, and the count of free choices -/

/-- The state with its time points and its count of free choices written anew. -/
def State.retimed (s : State) (p : Vector TimePoints 4 → Vector TimePoints 4) (n : Nat → Nat) : State :=
  { s with points := p s.points, choices := n s.choices }

/-- A write of time points that does not see the points of a channel. -/
structure LeavesPoint (c : Channel) (p : Vector TimePoints 4 → Vector TimePoints 4) : Prop where
  point : ∀ v : Vector TimePoints 4, (p v)[c] = v[c]
  set : ∀ (v : Vector TimePoints 4) (x : TimePoints), p (v.set c x) = (p v).set c x

theorem leavesPoint_set {c d : Channel} (h : d ≠ c) (x : TimePoints) : LeavesPoint c fun v => v.set d x where
  point _ := Vector.getElem_set_ne _ _ fun e => h (Fin.ext e)
  set _ y := Vector.set_comm y x fun e => h (Fin.ext e.symm)

theorem leavesPoint_id (c : Channel) : LeavesPoint c id := ⟨fun _ => rfl, fun _ _ => rfl⟩

section
variable (p : Vector TimePoints 4 → Vector TimePoints 4) (n : Nat → Nat)

theorem countMiss_retimed (i : Slot) (s : State) : countMiss i (s.retimed p n) = (countMiss i s).retimed p n :=
  local_comm (f := countMiss i) (g := fun s => s.retimed p n)
    (countMiss_local i _ s) rfl (countMiss_frame i s).toCompletionFrame.eq rfl

theorem unbind_retimed (i : Slot) (s : State) : unbind i (s.retimed p n) = (unbind i s).retimed p n :=
  local_comm (f := unbind i) (g := fun s => s.retimed p n)
    (unbind_local i _ s) rfl (unbind_frame i s).toCompletionFrame.eq rfl

theorem missTruncated_retimed (w : Window) (i : Slot) (s : State) :
    missTruncated w i (s.retimed p n) = (missTruncated w i s).retimed p n := by
  rw [missTruncated_eq, missTruncated_eq, apply_ite (fun u => State.retimed u p n), countMiss_retimed]
  rfl

theorem releaseEngine_retimed (e : EngineId) (s : State) :
    releaseEngine e (s.retimed p n) = (releaseEngine e s).retimed p n := by
  cases h : s.waiting with
  | nil => rw [releaseEngine_idle e h, releaseEngine_idle e (s := s.retimed p n) h]; rfl
  | cons q rest => rw [releaseEngine_granted e h, releaseEngine_granted e (s := s.retimed p n) h]; rfl

theorem releaseItem_retimed (x : EngineItem) (s : State) :
    releaseItem x (s.retimed p n) = (releaseItem x s).retimed p n := by
  cases x with
  | granted e => exact releaseEngine_retimed p n e s
  | requested => rfl
  | none => rfl

theorem dropUnicast_retimed (c : Channel) (b : Burst) (i : Slot) (s : State) :
    dropUnicast c b i (s.retimed p n) = (dropUnicast c b i s).retimed p n := by
  rw [dropUnicast, dropUnicast, ← unbind_retimed, ← releaseItem_retimed]
  rfl

theorem emitTrailer_retimed (c : Channel) (b : Burst) (o : BurstOutcome) (s : State) :
    emitTrailer c b o (s.retimed p n) = (emitTrailer c b o s).retimed p n := by
  unfold emitTrailer
  split <;> rfl

end

section
variable {c : Channel} {p : Vector TimePoints 4 → Vector TimePoints 4} (h : LeavesPoint c p) (n : Nat → Nat)
include h

theorem point_retimed (s : State) : (s.retimed p n).point c = s.point c := h.point s.points

theorem setPoint_retimed (s : State) (x : TimePoints) :
    (s.retimed p n).setPoint c x = (s.setPoint c x).retimed p n := by
  simp only [State.setPoint, State.retimed, h.set]

theorem endGrace_retimed (s : State) : endGrace c (s.retimed p n) = (endGrace c s).retimed p n := by
  rw [endGrace, point_retimed h, setPoint_retimed h]
  rfl

theorem truncate_retimed (s : State) : truncate c (s.retimed p n) = (truncate c s).retimed p n := by
  unfold truncate
  dsimp only
  rw [show (s.retimed p n).burst c = s.burst c from rfl]
  split
  · rw [endGrace_retimed h]
    split
    · rw [missTruncated_retimed, dropUnicast_retimed, emitTrailer_retimed]
      rfl
    · rw [emitTrailer_retimed]
      rfl
  · rfl

theorem openWindow_retimed (g : Grant) (s : State) :
    openWindow c g (s.retimed p n) = (openWindow c g s).retimed p n := by
  unfold openWindow
  dsimp only
  rw [point_retimed h, show ((s.retimed p n).setMap c _) = (s.setMap c _).retimed p n from rfl, setPoint_retimed h,
    truncate_retimed h]
  rfl

end

theorem openWindow_setPoint {c d : Channel} (h : d ≠ c) (g : Grant) (s : State) (x : TimePoints) :
    openWindow c g (s.setPoint d x) = (openWindow c g s).setPoint d x :=
  openWindow_retimed (leavesPoint_set h x) id g s

theorem openWindow_choices (c : Channel) (g : Grant) (s : State) (x : Nat) :
    openWindow c g { s with choices := x } = { openWindow c g s with choices := x } :=
  openWindow_retimed (leavesPoint_id c) (fun _ => x) g s

/-! ### What the test of R36 reads -/

/-- What the test of R36 reads of a channel stands as it did. -/
structure SameTest (c : Channel) (s t : State) : Prop where
  lead : t.windowLead = s.windowLead
  counter : t.counter = s.counter
  map : t.map c = s.map c
  point : t.point c = s.point c

theorem SameTest.waitingGrant {c : Channel} {s t : State} (h : SameTest c s t) :
    waitingGrant t c = waitingGrant s c := by
  rw [Machine.waitingGrant, Machine.waitingGrant, h.map, h.point]

theorem SameTest.openingDue {c : Channel} {s t : State} (h : SameTest c s t) (g : Grant) :
    openingDue t g = openingDue s g := by
  rw [Machine.openingDue, Machine.openingDue, h.lead, h.counter]

theorem SameTest.openingNow {c : Channel} {s t : State} (h : SameTest c s t) : openingNow t c = openingNow s c := by
  simp only [Machine.openingNow, h.waitingGrant, h.openingDue]

/-- The opening point set on a channel is the same wherever the test reads the same. -/
theorem SameTest.setOpening {c : Channel} {s t : State} (h : SameTest c s t) :
    setOpening c t = t.setPoint c ((setOpening c s).point c) := by
  simp only [Machine.setOpening, h.waitingGrant, h.openingDue, h.lead, h.point, point_setPoint_same]

theorem sameTest_choices (c : Channel) (s : State) (x : Nat) : SameTest c s { s with choices := x } :=
  ⟨rfl, rfl, rfl, rfl⟩

theorem sameTest_setPoint {c d : Channel} (h : d ≠ c) (s : State) (x : TimePoints) : SameTest c s (s.setPoint d x) :=
  ⟨rfl, rfl, rfl, point_setPoint_ne s d c x h⟩

/-- A window that opens leaves the time points of the other channels. -/
theorem openWindow_point_ne {c d : Channel} (h : d ≠ c) (g : Grant) (s : State) :
    (openWindow c g s).point d = s.point d := by
  have stands := openWindow_setPoint h g s (s.point d)
  rw [setPoint_self] at stands
  rw [stands, point_setPoint_same]

theorem sameTest_openWindow {c d : Channel} (h : d ≠ c) (g : Grant) (s : State) : SameTest c s (openWindow d g s) where
  lead := (openWindow_frame d g s).windowLead
  counter := (openWindow_frame d g s).counter
  map := by
    rw [State.map, openWindow_maps]
    exact map_setMap_ne s d c _ h
  point := openWindow_point_ne h.symm g s

/-- Where a window has opened, none opens again at once: its close point stands (R36). -/
theorem openingNow_openWindow_same (c : Channel) (g : Grant) (s : State) : openingNow (openWindow c g s) c = none := by
  have close : ((openWindow c g s).point c).close = some g.stop := by
    refine ((truncate_same c _).close c).trans ?_
    rw [point_setPoint_same]
  rw [openingNow, waitingGrant_open (by simp [close])]

/-! ### Opening points and openings pass one another -/

theorem openingNow_setOpening (c d : Channel) (s : State) : openingNow (setOpening c s) d = openingNow s d := by
  by_cases h : c = d
  · subst h
    have waiting : waitingGrant (setOpening c s) c = waitingGrant s c := by
      simp only [waitingGrant, setOpening, setPoint_map, point_setPoint_same]
    rw [openingNow, waiting]
    rfl
  · exact (sameTest_setPoint h s _).openingNow

theorem setOpening_comm (c d : Channel) (s : State) :
    setOpening c (setOpening d s) = setOpening d (setOpening c s) := by
  by_cases h : c = d
  · rw [h]
  · have left : setOpening c (setOpening d s) = _ := (sameTest_setPoint (Ne.symm h) s _).setOpening
    have right : setOpening d (setOpening c s) = _ := (sameTest_setPoint h s _).setOpening
    rw [left, right]
    simp only [setOpening, point_setPoint_same]
    exact setPoint_comm s d c _ _ (Ne.symm h)

/-- The opening of a window takes the opening point away, whatever it was. -/
theorem openWindow_setOpening_same (c : Channel) (g : Grant) (s : State) :
    openWindow c g (setOpening c s) = openWindow c g s := by
  simp only [openWindow, setOpening, setPoint_map, point_setPoint_same, setMap_setPoint, setPoint_setPoint]
  rfl

theorem openWindow_setOpening_ne {c d : Channel} (h : d ≠ c) (g : Grant) (s : State) :
    openWindow d g (setOpening c s) = setOpening c (openWindow d g s) := by
  rw [(sameTest_openWindow h g s).setOpening, setOpening, openWindow_setPoint (Ne.symm h), point_setPoint_same]

/-! ### The test of R36 on channel after channel -/

/-- The test of R36 on one channel after another. -/
def testInOrder (order : List Channel) (s : State) : State := order.foldl (fun u c => testOpening c u) s

/-- The opening points of one channel after another set anew. -/
def setOpenings (order : List Channel) (s : State) : State := order.foldl (fun u c => setOpening c u) s

/-- The windows of these channels open now. -/
def AllDue (l : List Channel) (s : State) : Prop := ∀ c ∈ l, (openingNow s c).isSome = true

theorem testOpening_due {c : Channel} {g : Grant} {s : State} (h : openingNow s c = some g) :
    testOpening c s = openWindow c g s := by
  rw [testOpening, h]

theorem testOpening_waits {c : Channel} {s : State} (h : ¬ (openingNow s c).isSome = true) :
    testOpening c s = setOpening c s := by
  rw [testOpening, Option.not_isSome_iff_eq_none.mp h]

theorem testOpening_choices (c : Channel) (s : State) (x : Nat) :
    testOpening c { s with choices := x } = { testOpening c s with choices := x } := by
  have now := (sameTest_choices c s x).openingNow
  unfold testOpening
  rw [now]
  cases openingNow s c with
  | some g => exact openWindow_choices c g s x
  | none => rfl

theorem testInOrder_choices (order : List Channel) (s : State) (x : Nat) :
    testInOrder order { s with choices := x } = { testInOrder order s with choices := x } := by
  induction order generalizing s with
  | nil => rfl
  | cons c rest ih =>
    have first := testOpening_choices c s x
    unfold testInOrder at ih ⊢
    rw [List.foldl_cons, List.foldl_cons, first, ih]

/-- A window that opens now leaves what opens now on every other channel. -/
theorem openingNow_testOpening_ne {c d : Channel} (h : d ≠ c) {s : State} (due : (openingNow s d).isSome = true) :
    openingNow (testOpening d s) c = openingNow s c := by
  obtain ⟨g, hg⟩ := Option.isSome_iff_exists.mp due
  rw [testOpening_due hg]
  exact (sameTest_openWindow h g s).openingNow

theorem AllDue.tail {d : Channel} {rest : List Channel} {s : State} (h : AllDue (d :: rest) s)
    (distinct : (d :: rest).Nodup) : AllDue rest (testOpening d s) := by
  intro c hc
  have other : d ≠ c := fun e => (List.nodup_cons.mp distinct).1 (e ▸ hc)
  rw [openingNow_testOpening_ne other (h d List.mem_cons_self)]
  exact h c (List.mem_cons_of_mem d hc)

/-- An opening point set before the windows open is gone once the channel's own has opened. -/
theorem testInOrder_setOpening {c : Channel} {l : List Channel} {s : State} (due : AllDue l s) (distinct : l.Nodup)
    (mem : c ∈ l) : testInOrder l (setOpening c s) = testInOrder l s := by
  induction l generalizing s with
  | nil => cases mem
  | cons d rest ih =>
    obtain ⟨g, hg⟩ := Option.isSome_iff_exists.mp (due d List.mem_cons_self)
    have hg' : openingNow (setOpening c s) d = some g := (openingNow_setOpening c d s).trans hg
    show testInOrder rest (testOpening d (setOpening c s)) = testInOrder rest (testOpening d s)
    by_cases here : d = c
    · subst here
      rw [testOpening_due hg', openWindow_setOpening_same, testOpening_due hg]
    · have passes : testOpening d (setOpening c s) = setOpening c (testOpening d s) := by
        rw [testOpening_due hg', openWindow_setOpening_ne here, testOpening_due hg]
      rw [passes]
      exact ih (due.tail distinct) (List.nodup_cons.mp distinct).2
        ((List.mem_cons.mp mem).resolve_left (Ne.symm here))

theorem testInOrder_setOpenings {l ks : List Channel} {s : State} (due : AllDue l s) (distinct : l.Nodup)
    (mem : ∀ c ∈ ks, c ∈ l) : testInOrder l (setOpenings ks s) = testInOrder l s := by
  induction ks generalizing s with
  | nil => rfl
  | cons k rest ih =>
    have due' : AllDue l (setOpening k s) := fun c hc => by rw [openingNow_setOpening]; exact due c hc
    exact (ih due' fun c hc => mem c (List.mem_cons_of_mem k hc)).trans
      (testInOrder_setOpening due distinct (mem k List.mem_cons_self))

theorem openingNow_setOpenings (ks : List Channel) (d : Channel) (s : State) :
    openingNow (setOpenings ks s) d = openingNow s d := by
  induction ks generalizing s with
  | nil => rfl
  | cons k rest ih => exact (ih (setOpening k s)).trans (openingNow_setOpening k d s)

/-- Where no window opens now, the test only sets the opening points. -/
theorem testInOrder_waiting {l : List Channel} {s : State} (h : ∀ c ∈ l, ¬ (openingNow s c).isSome = true) :
    testInOrder l s = setOpenings l s := by
  induction l generalizing s with
  | nil => rfl
  | cons k rest ih =>
    have first := testOpening_waits (h k List.mem_cons_self)
    have later := ih (s := setOpening k s) fun c hc => by
      rw [openingNow_setOpening]; exact h c (List.mem_cons_of_mem k hc)
    exact (congrArg (testInOrder rest) first).trans later

/-! ### The windows that open at one moment -/

theorem mem_openingChannels {s : State} {c : Channel} : c ∈ openingChannels s ↔ (openingNow s c).isSome = true := by
  simp [openingChannels]

theorem openingChannels_nodup (s : State) : (openingChannels s).Nodup := (List.nodup_finRange 4).filter _

/-- Once its window has opened, a channel is no longer among those whose windows open now. -/
theorem openingChannels_testOpening {c : Channel} {s : State} (h : c ∈ openingChannels s) :
    openingChannels (testOpening c s) = (openingChannels s).erase c := by
  have due := mem_openingChannels.mp h
  obtain ⟨g, hg⟩ := Option.isSome_iff_exists.mp due
  rw [(openingChannels_nodup s).erase_eq_filter, openingChannels, openingChannels, List.filter_filter]
  refine List.filter_congr fun d _ => ?_
  by_cases here : c = d
  · subst here
    rw [testOpening_due hg, openingNow_openWindow_same]
    simp
  · rw [openingNow_testOpening_ne here due]
    simp [Ne.symm here]

/-- A choice among candidates takes one of them. -/
theorem pick_eq_none {α : Type} {s t : State} {l : List α} (h : s.pick l = (none, t)) : l = [] := by
  unfold State.pick at h
  split at h
  · rfl
  · cases h
  · next x y rest =>
    have bound : (s.choose (rest.length + 2)).1 < (x :: y :: rest).length := Nat.mod_lt _ (by omega)
    rw [List.getElem?_eq_getElem bound] at h
    cases h

/-- The windows that open now open one after another in some order, all of them where there is room. -/
theorem openNow_inOrder (n : Nat) (s : State) (room : (openingChannels s).length ≤ n) :
    ∃ (order : List Channel) (x : Nat), order.Perm (openingChannels s) ∧
      openNow n s = { testInOrder order s with choices := x } := by
  induction n generalizing s with
  | zero => exact ⟨[], s.choices, by rw [List.length_eq_zero_iff.mp (Nat.le_zero.mp room)], rfl⟩
  | succ n ih =>
    unfold openNow
    split
    · next t picked => exact ⟨[], s.choices, by rw [pick_eq_none picked], rfl⟩
    · next c t picked =>
      obtain ⟨mem, m, rfl⟩ := pick_spec picked
      have left : openingChannels { testOpening c s with choices := m } = (openingChannels s).erase c :=
        openingChannels_testOpening mem
      have shorter := List.length_erase_of_mem mem
      obtain ⟨order, x, perm, opened⟩ := ih { testOpening c s with choices := m } (by rw [left]; omega)
      rw [left] at perm
      refine ⟨c :: order, x, (perm.cons c).trans (List.perm_cons_erase mem).symm, ?_⟩
      rw [testOpening_choices, opened, testInOrder_choices]
      rfl

/-- The channels on which no window opens now. -/
def waitingChannels (s : State) : List Channel := (List.finRange 4).filter fun c => !(openingNow s c).isSome

theorem waits_of_mem {s : State} {c : Channel} (h : c ∈ waitingChannels s) : ¬ (openingNow s c).isSome = true := by
  simpa [waitingChannels] using h

theorem waiting_append_opening (s : State) : (waitingChannels s ++ openingChannels s).Perm [0, 1, 2, 3] :=
  List.perm_append_comm.trans (List.filter_append_perm _ _)

/-- The order in which opening points are set does not matter. -/
theorem setOpenings_perm {l k : List Channel} (h : l.Perm k) (s : State) : setOpenings l s = setOpenings k s :=
  have : RightCommutative fun u c => setOpening c u := ⟨fun u c d => setOpening_comm d c u⟩
  h.foldl_eq s

/-- The test of R36 on every channel is the test on one channel after another, those first whose windows wait. -/
theorem testAll_inOrder (s : State) : ∃ (order : List Channel) (x : Nat), order.Perm [0, 1, 2, 3] ∧
    testAll s = { testInOrder order s with choices := x } := by
  have all : setOpening 3 (setOpening 2 (setOpening 1 (setOpening 0 s))) = setOpenings [0, 1, 2, 3] s := rfl
  have same : openingChannels (setOpenings [0, 1, 2, 3] s) = openingChannels s :=
    List.filter_congr fun d _ => by rw [openingNow_setOpenings]
  have few : (openingChannels s).length ≤ 4 := List.length_filter_le _ _
  obtain ⟨due, x, perm, opened⟩ := openNow_inOrder 4 (setOpenings [0, 1, 2, 3] s) (by rw [same]; exact few)
  rw [same] at perm
  have every : (waitingChannels s ++ due).Perm [0, 1, 2, 3] :=
    (perm.append_left _).trans (waiting_append_opening s)
  have points : setOpenings [0, 1, 2, 3] s = setOpenings due (setOpenings (waitingChannels s) s) :=
    (setOpenings_perm every.symm s).trans List.foldl_append
  have allDue : AllDue due (setOpenings (waitingChannels s) s) := fun c hc => by
    rw [openingNow_setOpenings]
    exact mem_openingChannels.mp (perm.mem_iff.mp hc)
  have tested : testInOrder (waitingChannels s ++ due) s = testInOrder due (setOpenings (waitingChannels s) s) := by
    rw [← testInOrder_waiting fun c => waits_of_mem]
    exact List.foldl_append
  refine ⟨waitingChannels s ++ due, x, every, ?_⟩
  rw [testAll, all, opened, points,
    testInOrder_setOpenings allDue (perm.nodup_iff.mpr (openingChannels_nodup s)) fun _ h => h, tested]

/-- Settles O6: after a new lead the channels are tested in the order in which their windows open; the other settings
are written or refused as they stand. -/
theorem setParameterWritesSetting : Obligations.SetParameterWritesSetting := by
  intro n v s hs
  refine ⟨fun hn hv => exec_accepted (Option.some_ne_none _) hs ?_, fun hn => ?_,
    fun h => exec_refused (Option.some_ne_none _) hs ?_⟩
  · have positive : 1 ≤ v.toNat := by bv_omega
    simp [requestEffect, setParameterRequest, hn, positive]
  · obtain ⟨order, x, perm, tested⟩ := testAll_inOrder { s with windowLead := v.toNat }
    refine ⟨order, x, perm, exec_accepted (Option.some_ne_none _) hs ?_⟩
    rw [requestEffect, setParameterRequest, if_pos hn, tested]
    simp only [testInOrder, testOpening_eq]
  · have notLead : n ≠ 1 := by
      rcases h with other | lifetime
      · exact other.1
      · rw [lifetime.1]; decide
    have notLifetime : ¬ (decide (n = 2) && decide (1 ≤ v.toNat)) = true := by
      rw [Bool.and_eq_true, decide_eq_true_iff, decide_eq_true_iff]
      rintro ⟨hn, positive⟩
      rcases h with other | lifetime
      · exact other.2 hn
      · simp [lifetime.2] at positive
    rw [requestEffect, setParameterRequest, if_neg notLead, if_neg notLifetime]

end Sys2Proof.Machine
end

section
/-! Requests on the pending map: MAP OPEN, MAP GRANT, MAP CLOSE and MAP ABANDON (R47 to R53). -/

namespace Sys2Proof.Machine

/-! ### MAP OPEN and MAP ABANDON (R47, R52) -/

theorem spanInRange_iff (n : Nat) : (decide (1 ≤ n) && decide (n ≤ 1048576)) = true ↔ 1 ≤ n ∧ n ≤ 1048576 := by
  rw [Bool.and_eq_true, decide_eq_true_iff, decide_eq_true_iff]

theorem mapOpenRequest_named {ch : Byte} {c : Channel} {start stop : Tick} (hc : ch.toNat = c.val)
    (low : 1 ≤ (stop - start).toNat) (high : (stop - start).toNat ≤ 1048576) (s : State) :
    mapOpenRequest ch start stop s = accept [] (setPending c (.building ⟨start, stop, []⟩) s) := by
  rw [mapOpenRequest, withChannel_named hc, if_pos ((spanInRange_iff _).mpr ⟨low, high⟩)]

/-- A span out of range is refused with the status of a channel out of range, so the channel need not be told. -/
theorem mapOpenRequest_badSpan {start stop : Tick} (h : stop = start ∨ 1048576 < (stop - start).toNat) (ch : Byte)
    (s : State) : mapOpenRequest ch start stop s = refuse .range s := by
  have outside : ¬ (1 ≤ (stop - start).toNat ∧ (stop - start).toNat ≤ 1048576) := by
    rcases h with rfl | long
    · simp
    · omega
  rw [mapOpenRequest, withChannel]
  split
  · exact if_neg fun span => outside ((spanInRange_iff _).mp span)
  · rfl

/-- Settles O48: the span alone decides MAP OPEN on a channel that is named, and nothing refuses MAP ABANDON there. -/
theorem mapOpenAndAbandonReplacePendingMap : Obligations.MapOpenAndAbandonReplacePendingMap := by
  refine ⟨fun ch start stop s hs => ⟨fun c hc low high => exec_accepted (Option.some_ne_none _) hs
        (mapOpenRequest_named hc low high s),
      fun out => exec_refused (Option.some_ne_none _) hs ?_⟩,
    fun ch s hs => ⟨fun c hc => exec_accepted (Option.some_ne_none _) hs ?_,
      fun beyond => exec_refused (Option.some_ne_none _) hs ?_⟩⟩
  · rcases out with beyond | span
    · rw [requestEffect, mapOpenRequest, withChannel_refused beyond]
    · exact mapOpenRequest_badSpan span ch s
  · rw [requestEffect, mapAbandonRequest, withChannel_named hc]
    rfl
  · rw [requestEffect, mapAbandonRequest, withChannel_refused beyond]

/-! ### The grant that MAP GRANT's fields make (R44, R48 checks 1 and 2) -/

theorem kindCode_cases (k : Byte) : k = 0 ∨ k = 1 ∨ k = 2 ∨ 3 ≤ k.toNat := by bv_omega

theorem readGrantKind_eq (k : Byte) : readGrantKind k = Claims.grantKindOf k := by
  rcases kindCode_cases k with rfl | rfl | rfl | high
  · rfl
  · rfl
  · rfl
  · have unnamed : k ≠ 0 ∧ k ≠ 1 ∧ k ≠ 2 := by bv_omega
    obtain ⟨not0, not1, not2⟩ := unnamed
    rw [readGrantKind, if_neg not0, if_neg not1, if_neg not2]
    exact (List.getElem?_eq_none high).symm

theorem grantKindOf_bound {k : Byte} {kind : GrantKind} (h : Claims.grantKindOf k = some kind) : k.toNat < 3 :=
  (List.getElem?_eq_some_iff.mp h).1

theorem grantKindOf_initial {k : Byte} {kind : GrantKind} (h : Claims.grantKindOf k = some kind) :
    kind = .initial ↔ k = 2 := by
  rcases kindCode_cases k with rfl | rfl | rfl | high
  · obtain rfl : GrantKind.data = kind := Option.some.inj h
    decide
  · obtain rfl : GrantKind.maint = kind := Option.some.inj h
    decide
  · obtain rfl : GrantKind.initial = kind := Option.some.inj h
    decide
  · exact absurd (grantKindOf_bound h) (Nat.not_lt.mpr high)

/-- Fields that pass the first two checks of R48 make the grant they spell. -/
theorem readGrant_of {k : Byte} {length sid : BitVec 16} {kind : GrantKind} {v : Sid}
    (hk : Claims.grantKindOf k = some kind) (hl : length ≠ 0) (hv : sid.toNat = v.val) (high : v.val ≤ 4094)
    (agrees : v = 0 ↔ kind = .initial) (start : Tick) :
    readGrant start length sid k = some ⟨start, length, v, kind⟩ := by
  obtain ⟨x, hx⟩ := v
  dsimp only at hv high
  subst hv
  have long : 1 ≤ length.toNat := by bv_omega
  have agrees' : kind = .initial ↔ sid.toNat = 0 := by rw [← agrees, Fin.ext_iff]; rfl
  simp [readGrant, readGrantKind_eq, hk, hx, long, high, agrees']

theorem readGrant_some {k : Byte} {length sid : BitVec 16} (hl : length ≠ 0) (high : sid.toNat ≤ 4094)
    (hk : k.toNat ≤ 2) (agrees : sid = 0 ↔ k = 2) (start : Tick) :
    ∃ v kind, readGrant start length sid k = some ⟨start, length, v, kind⟩ := by
  obtain ⟨kind, named⟩ : ∃ kind, Claims.grantKindOf k = some kind :=
    ⟨_, List.getElem?_eq_getElem (Nat.lt_succ_of_le hk)⟩
  have zero : (⟨sid.toNat, by omega⟩ : Sid) = 0 ↔ sid = 0 := by
    rw [Fin.ext_iff, ← BitVec.toNat_inj]; rfl
  exact ⟨⟨sid.toNat, by omega⟩, kind,
    readGrant_of named hl rfl high (zero.trans (agrees.trans (grantKindOf_initial named).symm)) start⟩

/-- Fields that fail one of the first two checks of R48 make no grant. -/
theorem readGrant_none {k : Byte} {length sid : BitVec 16} (h : length = 0 ∨ 4095 ≤ sid.toNat ∨ 3 ≤ k.toNat ∨
    (sid = 0 ∧ k ≠ 2) ∨ (sid ≠ 0 ∧ k = 2)) (start : Tick) : readGrant start length sid k = none := by
  unfold readGrant
  split
  · rfl
  · next kind named =>
    rw [readGrantKind_eq] at named
    have initial := grantKindOf_initial named
    have bounded := grantKindOf_bound named
    split
    · refine if_neg fun passes => ?_
      simp only [Bool.and_eq_true, decide_eq_true_eq, decide_eq_decide] at passes
      obtain ⟨⟨long, high⟩, agrees⟩ := passes
      rw [initial] at agrees
      rcases h with rfl | beyond | beyond | ⟨rfl, other⟩ | ⟨other, rfl⟩
      · simp at long
      · omega
      · omega
      · exact other (agrees.mpr rfl)
      · exact other (BitVec.eq_of_toNat_eq (agrees.mp rfl))
    · rfl

/-! ### MAP GRANT on a channel (R48 checks 3 to 6, R49) -/

theorem BurstMap.encloses_iff (m : BurstMap) (g : Grant) : m.encloses g = true ↔ m.endOffset g ≤ m.span :=
  decide_eq_true_iff

theorem BurstMap.follows_iff (m : BurstMap) (g : Grant) :
    m.follows g = true ↔ ∀ last, m.grants.getLast? = some last → m.endOffset last ≤ m.offset g := by
  unfold BurstMap.follows
  split
  · next empty => simp [empty]
  · next last final => simp [final]

theorem mapGrantRequest_read {ch k : Byte} {c : Channel} {start : Tick} {length sid : BitVec 16} {g : Grant}
    (hc : ch.toNat = c.val) (hg : readGrant start length sid k = some g) (s : State) :
    mapGrantRequest ch start length sid k s = appendGrant c g s := by
  simp only [mapGrantRequest, withChannel_named hc, hg]

theorem mapGrantRequest_unread {k : Byte} {start : Tick} {length sid : BitVec 16}
    (hg : readGrant start length sid k = none) (ch : Byte) (s : State) :
    mapGrantRequest ch start length sid k s = refuse .range s := by
  simp only [mapGrantRequest, withChannel, hg]
  split <;> rfl

section
variable {c : Channel} {g : Grant} {m : BurstMap} {s : State}

theorem appendGrant_unbuilt (h : ∀ m, (s.map c).pendingMap ≠ .building m) :
    appendGrant c g s = refuse .state s := by
  unfold appendGrant
  split
  · rfl
  · rfl
  · next m building => exact absurd building (h m)

theorem appendGrant_full (hm : (s.map c).pendingMap = .building m) (full : grantCapacity ≤ m.grants.length) :
    appendGrant c g s = refuse .full s := by
  simp only [appendGrant, hm]
  rw [if_neg (Nat.not_lt.mpr full)]

theorem appendGrant_outside (hm : (s.map c).pendingMap = .building m) (room : m.grants.length < grantCapacity)
    (outside : m.span < m.endOffset g) : appendGrant c g s = refuse .range s := by
  have beyond : ¬ m.encloses g = true := fun h => Nat.not_le.mpr outside ((m.encloses_iff g).mp h)
  simp only [appendGrant, hm]
  rw [if_pos room, if_neg beyond]

theorem appendGrant_early {last : Grant} (hm : (s.map c).pendingMap = .building m)
    (room : m.grants.length < grantCapacity) (inside : m.endOffset g ≤ m.span)
    (hl : m.grants.getLast? = some last) (early : m.offset g < m.endOffset last) :
    appendGrant c g s = refuse .order s := by
  have disordered : ¬ m.follows g = true := fun h =>
    Nat.not_le.mpr early ((m.follows_iff g).mp h last hl)
  simp only [appendGrant, hm]
  rw [if_pos room, if_pos ((m.encloses_iff g).mpr inside), if_neg disordered]

theorem appendGrant_fits (hm : (s.map c).pendingMap = .building m) (room : m.grants.length < grantCapacity)
    (inside : m.endOffset g ≤ m.span)
    (ordered : ∀ last, m.grants.getLast? = some last → m.endOffset last ≤ m.offset g) :
    appendGrant c g s = accept [byteOfNat (m.grants.length + 1)]
      (setPending c (.building { m with grants := m.grants ++ [g] }) s) := by
  simp only [appendGrant, hm]
  rw [if_pos room, if_pos ((m.encloses_iff g).mpr inside), if_pos ((m.follows_iff g).mpr ordered)]

end

/-- Settles O49: the fields are read first, and the grant they make meets the pending map's checks in turn. -/
theorem mapGrantAppendsOrRefuses : Obligations.MapGrantAppendsOrRefuses := by
  refine ⟨fun ch k c start length sid kind v m s hs hc hk hl hv high agrees hm room inside ordered =>
    exec_accepted (Option.some_ne_none _) hs
      ((mapGrantRequest_read hc (readGrant_of hk hl hv high agrees start) s).trans
        (appendGrant_fits hm room inside ordered)),
    fun ch k start length sid s hs => ⟨fun out => exec_refused (Option.some_ne_none _) hs ?_,
      fun c hc hl high hk agrees => ?_⟩⟩
  · rcases out with beyond | fields
    · rw [requestEffect, mapGrantRequest, withChannel_refused beyond]
    · exact mapGrantRequest_unread (readGrant_none fields start) ch s
  · obtain ⟨v, kind, read⟩ := readGrant_some hl high hk agrees start
    have refused {status : Status} (h : appendGrant c ⟨start, length, v, kind⟩ s = refuse status s) :
        exec (.mapGrant ch start length sid k) s = .next (s.answered status []) :=
      exec_refused (Option.some_ne_none _) hs ((mapGrantRequest_read hc read s).trans h)
    exact ⟨fun unbuilt => refused (appendGrant_unbuilt unbuilt), fun m hm =>
      ⟨fun full => refused (appendGrant_full hm full),
        fun room outside => refused (appendGrant_outside hm room outside),
        fun last room inside hlast early => refused (appendGrant_early hm room inside hlast early)⟩⟩

/-! ### MAP CLOSE (R50, R51, R53) -/

theorem isBefore_iff (a b : Tick) : isBefore a b = true ↔ Claims.before a b := by
  rw [isBefore, Bool.and_eq_true, decide_eq_true_iff, decide_eq_true_iff]
  exact Iff.rfl

/-- On a RUNNING channel the start is held against the active map's end. -/
theorem startRefusal_running {x : ChannelMap} {a : BurstMap} (hx : x.state = .running) (ha : x.active = some a)
    (s : State) (start : Tick) :
    startRefusal s x start = if Claims.before start a.stop then some .overlap else none := by
  simp only [startRefusal, hx, ha, isBefore_iff]

/-- On an OFF or STARVED channel the start is held against the present time. -/
theorem startRefusal_idle {x : ChannelMap} (hx : x.state ≠ .running) (s : State) (start : Tick) :
    startRefusal s x start = if Claims.before start s.counter then some .late else none := by
  cases h : x.state with
  | running => exact absurd h hx
  | starved => simp only [startRefusal, h, isBefore_iff]
  | off => simp only [startRefusal, h, isBefore_iff]

theorem testOpening_pendingMap (c : Channel) (s : State) :
    ((testOpening c s).map c).pendingMap = (s.map c).pendingMap := by
  unfold testOpening
  split
  · rw [openWindow_map_same]
  · rfl

theorem promote_pendingMap (c : Channel) (m : BurstMap) (s : State) :
    ((promote c m s).map c).pendingMap = .empty := by
  unfold promote
  rw [testOpening_pendingMap, setPoint_map, map_setMap_same]

theorem closeReply_promote (c : Channel) (m : BurstMap) (s : State) :
    closeReply c (promote c m s) = accept [2, 0] (Claims.promoted c m s) := by
  rw [closeReply, promote_mapState, promote_pendingMap, promote_eq]
  rfl

theorem closeReply_ready {c : Channel} {s : State} (h : (s.map c).state ≠ .starved) (m : BurstMap) :
    closeReply c (setPending c (.ready m) s) =
      accept [if (s.map c).state = .running then 2 else 0, 2]
        (s.setMap c { s.map c with pendingMap := .ready m }) := by
  rw [closeReply, setPending, map_setMap_same]
  cases hx : (s.map c).state with
  | starved => exact absurd hx h
  | running => rfl
  | off => rfl

section
variable {ch : Byte} {c : Channel} {m : BurstMap} {s : State}

theorem mapCloseRequest_unbuilt (hc : ch.toNat = c.val) (h : ∀ m, (s.map c).pendingMap ≠ .building m) :
    mapCloseRequest ch s = refuse .state s := by
  rw [mapCloseRequest, withChannel_named hc]
  split
  · rfl
  · rfl
  · next m building => exact absurd building (h m)

theorem mapCloseRequest_badStart {status : Status} (hc : ch.toNat = c.val)
    (hm : (s.map c).pendingMap = .building m) (start : startRefusal s (s.map c) m.start = some status) :
    mapCloseRequest ch s = refuse status s := by
  simp only [mapCloseRequest, withChannel_named hc, hm, start]

theorem mapCloseRequest_tooFar (hc : ch.toNat = c.val) (hm : (s.map c).pendingMap = .building m)
    (start : startRefusal s (s.map c) m.start = none) (far : 2 ^ 30 < (m.start - s.counter).toNat) :
    mapCloseRequest ch s = refuse .range s := by
  have unreached : ¬ withinReach s m.start = true := fun near =>
    Nat.not_le.mpr far ((withinReach_iff s _).mp near)
  simp only [mapCloseRequest, withChannel_named hc, hm, start]
  exact if_neg unreached

theorem mapCloseRequest_near (hc : ch.toNat = c.val) (hm : (s.map c).pendingMap = .building m)
    (start : startRefusal s (s.map c) m.start = none) (near : (m.start - s.counter).toNat ≤ 2 ^ 30) :
    mapCloseRequest ch s =
      if (s.map c).state = .starved then closeReply c (promote c m s)
      else closeReply c (setPending c (.ready m) s) := by
  simp only [mapCloseRequest, withChannel_named hc, hm, start]
  exact if_pos ((withinReach_iff s _).mpr near)

end

/-- Settles O50: the start of a BUILDING map meets the schedule first and then the reach; what passes is promoted on a
STARVED channel and READY on another. -/
theorem mapCloseReadiesOrPromotes : Obligations.MapCloseReadiesOrPromotes := by
  refine ⟨fun ch s hs beyond => exec_refused (Option.some_ne_none _) hs
    (by rw [requestEffect, mapCloseRequest, withChannel_refused beyond]), fun ch c m s hs hc => ?_⟩
  have refused {status : Status} (h : mapCloseRequest ch s = refuse status s) :
      exec (.mapClose ch) s = .next (s.answered status []) := exec_refused (Option.some_ne_none _) hs h
  refine ⟨fun unbuilt => refused (mapCloseRequest_unbuilt hc unbuilt), fun hm =>
    ⟨fun a running active overlaps => refused (mapCloseRequest_badStart hc hm ?_),
      fun idle late => refused (mapCloseRequest_badStart hc hm ?_), fun a free => ?_⟩⟩
  · rw [startRefusal_running running active, if_pos overlaps]
  · rw [startRefusal_idle idle, if_pos late]
  · have start : startRefusal s (s.map c) m.start = none := by
      rcases free with ⟨running, active, clear⟩ | ⟨idle, clear⟩
      · rw [startRefusal_running running active, if_neg clear]
      · rw [startRefusal_idle idle, if_neg clear]
    refine ⟨fun far => refused (mapCloseRequest_tooFar hc hm start far), fun near =>
      ⟨fun served => exec_accepted (Option.some_ne_none _) hs ?_,
        fun starved => exec_accepted (Option.some_ne_none _) hs ?_⟩⟩
    · exact (mapCloseRequest_near hc hm start near).trans ((if_neg served).trans (closeReply_ready served m))
    · exact (mapCloseRequest_near hc hm start near).trans ((if_pos starved).trans (closeReply_promote c m s))

end Sys2Proof.Machine
end

section
/-! Bursts in progress: the decision of the mode, SYMBOL in BYPASS, CLAIM, and a DETECT that waits for an engine
(R64, R68, R69, R71 to R73, R88, R90). -/

namespace Sys2Proof.Machine

/-! ### Which burst is in progress (R62) -/

theorem unicastInProgress_iff {b : Burst} {w : Window} :
    unicastInProgress b = some w ↔ b.window = some w ∧ b.state.inProgress = true ∧ w.kind = .unicast := by
  have filtered : unicastInProgress b = b.window.filter fun v => b.state.inProgress && v.kind = .unicast := by
    unfold unicastInProgress
    cases b.window <;> rfl
  simp [filtered, Option.filter_eq_some_iff]

theorem contentionInProgress_iff {b : Burst} {w : Window} :
    contentionInProgress b = some w ↔ b.window = some w ∧ b.state.inProgress = true ∧ w.kind = .contention := by
  have filtered : contentionInProgress b = b.window.filter fun v => b.state.inProgress && v.kind = .contention := by
    unfold contentionInProgress
    cases b.window <;> rfl
  simp [filtered, Option.filter_eq_some_iff]

/-- In CLOSED and OPEN no burst of any kind is in progress, and in a window of one kind no burst of another. -/
theorem not_inProgress {b : Burst} {kind other : WindowKind} (differ : other ≠ kind) (h : b.state = .closed ∨
    b.state = .opened ∨ ∃ w, b.window = some w ∧ w.kind = other) (w : Window) :
    ¬ (b.window = some w ∧ b.state.inProgress = true ∧ w.kind = kind) := by
  rintro ⟨hw, hs, hk⟩
  rcases h with closed | opened | ⟨v, hv, hkv⟩
  · rw [closed] at hs; cases hs
  · rw [opened] at hs; cases hs
  · cases hw.symm.trans hv
    exact differ (hkv.symm.trans hk)

theorem unicastInProgress_outside {b : Burst} (h : b.state = .closed ∨ b.state = .opened ∨
    ∃ w, b.window = some w ∧ w.kind = .contention) : unicastInProgress b = none :=
  Option.eq_none_iff_forall_ne_some.mpr fun w hu => not_inProgress (by decide) h w (unicastInProgress_iff.mp hu)

theorem contentionInProgress_outside {b : Burst} (h : b.state = .closed ∨ b.state = .opened ∨
    ∃ w, b.window = some w ∧ w.kind = .unicast) : contentionInProgress b = none :=
  Option.eq_none_iff_forall_ne_some.mpr fun w hc => not_inProgress (by decide) h w (contentionInProgress_iff.mp hc)

/-- A burst is in progress in LIVE and GRACE. -/
theorem inProgress_of_served {x : SequencerState} (h : x = .live ∨ x = .grace) : x.inProgress = true :=
  (SequencerState.inProgress_iff x).mpr (.inr h)

/-! ### PREAMBLE DONE and the END before it (R68, R69, R73) -/

theorem preambleDone_undecided {c : Channel} {w : Window} {s : State}
    (hu : unicastInProgress (s.burst c) = some w) (hm : (s.burst c).mode = .undecided) :
    preambleDone c s = decideMode c w s := by
  rw [preambleDone, hu]
  exact if_pos hm

theorem preambleDone_decided {c : Channel} {s : State} (hm : (s.burst c).mode ≠ .undecided) :
    preambleDone c s = s := by
  unfold preambleDone
  split
  · exact if_neg hm
  · rfl

theorem decideMode_granted {c : Channel} {e : EngineId} {s : State} (he : (s.burst c).engine = .granted e)
    (w : Window) : decideMode c w s =
      (s.setBurst c { s.burst c with mode := .equalised, headerSent := true }).emit c
        (.header w.sid c w.start w.grant .equalised) := by
  simp only [decideMode, he]

/-- With its engine still requested, the request is withdrawn; a WAITING burst becomes LIVE. -/
theorem decideMode_requested {c : Channel} {s : State} (he : (s.burst c).engine = .requested) (w : Window) :
    decideMode c w s =
      ((withdrawRequest c s).setBurst c
        { s.burst c with
          mode := .bypass, engine := .none, headerSent := true,
          state := if (s.burst c).state = .waiting then .live else (s.burst c).state }).emit c
        (.header w.sid c w.start w.grant .bypass) := by
  rw [decideMode, he]

/-- Deciding the mode leaves the unicast burst in progress. -/
theorem decideMode_unicastInProgress {c : Channel} {w : Window} {s : State}
    (hu : unicastInProgress (s.burst c) = some w) :
    unicastInProgress ((decideMode c w s).burst c) = some w := by
  obtain ⟨-, -, window, progress⟩ := decideMode_burst c w s
  rwa [unicastInProgress_iff, window, progress, ← unicastInProgress_iff]

/-- The END of a unicast burst (R73, R74): an undecided one is decided first. -/
theorem burstEnd_unicast {c : Channel} {w : Window} {i : Slot} {s : State}
    (hu : unicastInProgress (s.burst c) = some w) (hi : (s.burst c).slot = some i) (power frequency : Int) :
    burstEnd c power frequency s =
      endUnicast c w i power frequency (if (s.burst c).mode = .undecided then decideMode c w s else s) := by
  obtain ⟨hw, -, hk⟩ := unicastInProgress_iff.mp hu
  rw [burstEnd, contentionInProgress_none hw (by simp [hk]), hu, hi]

/-- Settles O18: the END of an undecided burst decides it as PREAMBLE DONE does, deciding goes by the engine item. -/
theorem preambleDoneDecidesMode : Obligations.PreambleDoneDecidesMode := by
  refine ⟨fun c power frequency s t w i hw hk hs hi hm ht => congrArg Host.Outcome.next ?_, fun c s =>
    ⟨fun w e hw hk hs hm he => congrArg Host.Outcome.next ?_, fun w hw hk hs hm he => congrArg Host.Outcome.next ?_,
      fun ignored => congrArg Host.Outcome.next ?_⟩⟩
  · have hu := unicastInProgress_of hw hk ((SequencerState.inProgress_iff _).mpr hs)
    obtain ⟨decided, slot, -, -⟩ := decideMode_burst c w s
    have same : t = decideMode c w s :=
      (Host.Outcome.next.inj ht).symm.trans (preambleDone_undecided hu hm)
    rw [same, burstEnd_unicast hu hi, if_pos hm, burstEnd_unicast (decideMode_unicastInProgress hu) (slot.trans hi),
      if_neg decided]
  · rw [preambleDone_undecided (unicastInProgress_of hw hk (inProgress_of_served hs)) hm, decideMode_granted he]
  · have progress : (s.burst c).state.inProgress = true := by
      rcases hs with h | h <;> rw [h] <;> rfl
    rw [preambleDone_undecided (unicastInProgress_of hw hk progress) hm, decideMode_requested he]
    rcases hs with h | h <;> rw [h] <;> rfl
  · rcases ignored with hm | outside
    · exact preambleDone_decided hm
    · rw [preambleDone, unicastInProgress_outside outside]

/-! ### SYMBOL in BYPASS (R71) -/

/-- Settles O19: the sample goes out as it came in BYPASS, and nothing goes out of an undecided burst. -/
theorem symbolInBypassPassesUnchanged : Obligations.SymbolInBypassPassesUnchanged := by
  refine fun c x reference s => ⟨fun w hw hk hs hm => congrArg Host.Outcome.next ?_,
    fun ignored => congrArg Host.Outcome.next ?_⟩
  · simp only [symbol, unicastInProgress_of hw hk (inProgress_of_served hs), hm]
  · rcases ignored with hm | outside
    · simp only [symbol, hm]
      split <;> rfl
    · rw [symbol, unicastInProgress_outside outside]

/-! ### CLAIM (R72) -/

/-- Settles O22: CLAIM asks for a contention burst in progress, and every start of a burst clears the claim. -/
theorem claimIsStoredInContentionBurst : Obligations.ClaimIsStoredInContentionBurst := by
  refine ⟨fun c token valid s => ⟨fun w hw hk hs => congrArg Host.Outcome.next ?_,
    fun outside => congrArg Host.Outcome.next ?_⟩, fun c phase s w hp hs hw hk => ⟨_, rfl, ?_⟩⟩
  · rw [claim, contentionInProgress_iff.mpr ⟨hw, inProgress_of_served hs, hk⟩]
  · rw [claim, contentionInProgress_outside outside]
  · rw [detect_inside hp, detectByState_opened hs hw, detectOpen, hk]
    dsimp only
    rw [beginContention, burst_setBurst_same]
    rfl

/-! ### A request joins the waiting order (R88, R90) -/

theorem Capture.earlier_iff (a b : Capture) : a.earlier b = true ↔
    Claims.before a.tick b.tick ∨ (a.tick = b.tick ∧ a.phase.toNat < b.phase.toNat) := by
  simp only [Capture.earlier, Bool.or_eq_true, Bool.and_eq_true, decide_eq_true_eq, isBefore_iff]

theorem Capture.eq_iff (a b : Capture) : a = b ↔ a.tick = b.tick ∧ a.phase = b.phase := by
  cases a; cases b; simp

theorem standsBefore_iff (a b : EngineRequest) : standsBefore a b = true ↔ Claims.standsFirst a b := by
  simp only [standsBefore, Claims.standsFirst, Bool.or_eq_true, Bool.and_eq_true, decide_eq_true_eq,
    Capture.earlier_iff, Capture.eq_iff, Fin.lt_def]
  tauto

/-- A request joins behind those it does not stand before and ahead of the first one it does. -/
theorem joinOrder_splits (q : EngineRequest) (l : List EngineRequest) : ∃ ahead behind, l = ahead ++ behind ∧
    (∀ x ∈ ahead, ¬ Claims.standsFirst q x) ∧ (∀ x, behind.head? = some x → Claims.standsFirst q x) ∧
    joinOrder q l = ahead ++ q :: behind := by
  induction l with
  | nil => exact ⟨[], [], rfl, by simp, by simp, rfl⟩
  | cons y rest ih =>
    by_cases first : Claims.standsFirst q y
    · exact ⟨[], y :: rest, rfl, by simp, by simpa using first, if_pos ((standsBefore_iff q y).mpr first)⟩
    · obtain ⟨ahead, behind, split, notFirst, next, joined⟩ := ih
      refine ⟨y :: ahead, behind, by rw [split]; rfl, by simpa using ⟨first, notFirst⟩, next, ?_⟩
      rw [joinOrder, if_neg (fun h => first ((standsBefore_iff q y).mp h)), joined]
      rfl

/-- With every engine LIVE a request finds none IDLE and none to pre-empt. -/
theorem requestEngine_joins {s : State} (live : ∀ e, (s.engine e).state = .live) (q : EngineRequest) :
    requestEngine q s = { s with waiting := joinOrder q s.waiting } := by
  have noneIdle : idleEngine s = none := by simp [idleEngine, live]
  have noneSettling : settlingEngines s = [] := by simp [settlingEngines, live]
  have noneTaken : preemptedEngine s = (none, s) := by
    rw [preemptedEngine, noneSettling]
    rfl
  rw [requestEngine, noneIdle]
  dsimp only
  rw [noneTaken]

/-- Settles O17: the burst begins on the unbound record, and its request splits the waiting order. -/
theorem detectWaitsWhenEveryEngineIsLive : Obligations.DetectWaitsWhenEveryEngineIsLive := by
  intro c phase s w i h unbound live
  obtain ⟨ahead, behind, split, notFirst, next, joined⟩ :=
    joinOrder_splits ⟨c, i, w.grant, ⟨s.counter, phase⟩⟩ s.waiting
  refine ⟨ahead, behind, split, notFirst, next, ?_⟩
  rw [detect_bindable h, beginUnicast, unbound]
  dsimp only
  rw [requestEngine_joins (by exact live)]
  simp only [setBurst_waiting, setStation_waiting, joined, setStation_burst, Burst.started, h.window]
  rfl

end Sys2Proof.Machine
end

section
/-! SYMBOL on an engine: the filter sum, the rounded and clipped output, the clip count, the adaptation on a training
symbol, against the words of the statements (R70, R96 to R101). -/

namespace Sys2Proof.Machine

/-! ### Rounding, clipping and clamping (R97, R98, R100) -/

theorem roundShift_succ (x : Int) (n : Nat) : roundShift x (n + 1) = (x + 2 ^ n) / 2 ^ (n + 1) := by
  have doubled : 2 * x + 2 ^ (n + 1) = 2 * (x + 2 ^ n) := by ring
  rw [roundShift, doubled, pow_succ' 2 (n + 1), Int.mul_ediv_mul_of_pos _ _ (by decide)]

theorem roundShift_rounded (x : Int) : roundShift x 15 = Claims.rounded x := roundShift_succ x 14

theorem roundShift_change (x : Int) (shift : Nat) : roundShift x (15 + shift) = Claims.change shift x := by
  rw [show 15 + shift = 14 + shift + 1 by omega, roundShift_succ, Claims.change,
    show 14 + shift + 1 = 15 + shift by omega]

theorem limitPart_limited (x : Int) : limitPart x = Claims.limited x := clamp_eq_forced (by decide) x

theorem exceedsPart_iff (x : Int) : exceedsPart x = true ↔ Claims.limited x ≠ x := by
  rw [← limitPart_limited, Ne, limitPart_eq, Bool.not_eq_false]

theorem exceeds_iff (a : Exact) :
    a.exceeds = true ↔ Claims.limited a.re ≠ a.re ∨ Claims.limited a.im ≠ a.im := by
  rw [Exact.exceeds, Bool.or_eq_true, exceedsPart_iff, exceedsPart_iff]

theorem limited_eq (a : Exact) :
    a.limited = ⟨BitVec.ofInt 16 (Claims.limited a.re), BitVec.ofInt 16 (Claims.limited a.im)⟩ := by
  rw [Exact.limited, limitPart_limited, limitPart_limited]

/-- A clipped part stands in its 16 bits. -/
theorem toInt_limited (x : Int) : (BitVec.ofInt 16 (Claims.limited x)).toInt = Claims.limited x := by
  obtain ⟨low, high⟩ := limitPart_range x
  rw [limitPart_limited] at low high
  exact BitVec.toInt_ofInt_eq_self (by decide) low (by omega)

/-! ### The filter output (R96 to R98) -/

/-- The value `k` places back once a sample has entered the delay line. -/
theorem placesBack_take (e : Engine) (x : Cplx) {k : Nat} (hk : k < 32) :
    (e.take x).placesBack k = exactOf (Claims.backValue e x k) := by
  have position := e.writePos.isLt
  unfold Engine.placesBack Claims.backValue Engine.take
  simp only [Nat.mod_eq_of_lt hk]
  congr 1
  split
  · next zero => simp [zero, Nat.mod_eq_of_lt position]
  · next back => exact Vector.getElem_set_ne _ _ (by omega)

/-- One part of the sum of coefficient times value over every tap, the values given from the first tap on. -/
def tapSum (part : Cplx → Cplx → Int) (value : Nat → Cplx) (taps : List Cplx) : Int :=
  ((List.range taps.length).map fun k => part (taps.getD k ⟨0, 0⟩) (value k)).sum

theorem tapSum_backValue (e : Engine) (x : Cplx) (taps : List Cplx) (part : Cplx → Cplx → Int) :
    tapSum part (Claims.backValue e x) taps = Claims.exactSum e x taps part := rfl

theorem tapSum_cons (part : Cplx → Cplx → Int) (value : Nat → Cplx) (c : Cplx) (rest : List Cplx) :
    tapSum part value (c :: rest) = part c (value 0) + tapSum part (fun k => value (k + 1)) rest := by
  simp [tapSum, List.range_succ_eq_map, Function.comp_def]

/-- The sum over the taps from tap `k` on, its two parts formed apart. -/
theorem sumTaps_eq (e : Engine) (taps : List Cplx) (k : Nat) (value : Nat → Cplx)
    (stand : ∀ j < taps.length, e.placesBack (k + j) = exactOf (value j)) :
    e.sumTaps k taps = ⟨tapSum Claims.productRe value taps, tapSum Claims.productIm value taps⟩ := by
  induction taps generalizing k value with
  | nil => rfl
  | cons c rest ih =>
    have first : e.placesBack k = exactOf (value 0) := stand 0 (by simp)
    have others : ∀ j < rest.length, e.placesBack (k + 1 + j) = exactOf (value (j + 1)) := fun j hj => by
      rw [Nat.add_right_comm, Nat.add_assoc]
      exact stand (j + 1) (by simpa using hj)
    rw [Engine.sumTaps, first, ih (k + 1) _ others, tapSum_cons, tapSum_cons]
    rfl

section

variable {e : Engine} {f : CoefficientSet}

/-- The filter output of the sample taken last, rounded and not yet clipped. -/
theorem roundedOutput_take (hf : f.taps.length ≤ 32) (x : Cplx) :
    (e.take x).roundedOutput f.taps = ⟨Claims.outRe e x f.taps, Claims.outIm e x f.taps⟩ := by
  have summed := sumTaps_eq (e.take x) f.taps 0 (Claims.backValue e x) fun j hj => by
    rw [Nat.zero_add, placesBack_take e x (by omega)]
  simp only [Engine.roundedOutput, summed, roundShift_rounded, tapSum_backValue, Claims.outRe, Claims.outIm]

theorem filterSet_take (hw : e.working = some f) (x : Cplx) : (e.take x).filterSet = f := by
  simp [Engine.filterSet, Engine.take, hw]

theorem output_take (hw : e.working = some f) (hf : f.taps.length ≤ 32) (x : Cplx) :
    (e.take x).output = Claims.output e x f.taps := by
  rw [Engine.output, filterSet_take hw, roundedOutput_take hf, limited_eq]
  rfl

theorem moreClips_take (hw : e.working = some f) (hf : f.taps.length ≤ 32) (x : Cplx) (n : Nat) :
    moreClips (e.take x).clipped n = Claims.clipsAfter e x f.taps n := by
  have clipped : (e.take x).clipped = true ↔ Claims.limited (Claims.outRe e x f.taps) ≠ Claims.outRe e x f.taps ∨
      Claims.limited (Claims.outIm e x f.taps) ≠ Claims.outIm e x f.taps := by
    rw [Engine.clipped, filterSet_take hw, roundedOutput_take hf, exceeds_iff]
  simp only [moreClips, Claims.clipsAfter, Bool.and_eq_true, decide_eq_true_eq, clipped]

/-! ### The adaptation on a training symbol (R99, R100) -/

/-- Every coefficient moved and clamped, and whether some clamp changed a part, the moved values given from the first
coefficient on. -/
theorem adaptTaps_eq (e : Engine) (shift : Nat) (error : Exact) (taps : List Cplx) (k : Nat) (moved : Nat → Exact)
    (stand : ∀ j < taps.length, e.changedTap shift error (k + j) (taps.getD j ⟨0, 0⟩) = moved j) :
    (e.adaptTaps shift error k taps).1 = (List.range taps.length).map (fun j => (moved j).limited) ∧
    ((e.adaptTaps shift error k taps).2 = true ↔ ∃ j < taps.length, (moved j).exceeds = true) := by
  induction taps generalizing k moved with
  | nil => simp [Engine.adaptTaps]
  | cons c rest ih =>
    have first : e.changedTap shift error k c = moved 0 := stand 0 (by simp)
    have others : ∀ j < rest.length, e.changedTap shift error (k + 1 + j) (rest.getD j ⟨0, 0⟩) = moved (j + 1) :=
      fun j hj => by
        rw [Nat.add_right_comm, Nat.add_assoc]
        exact stand (j + 1) (by simpa using hj)
    obtain ⟨taken, clamped⟩ := ih (k + 1) _ others
    rw [Engine.adaptTaps, first]
    refine ⟨?_, ?_⟩
    · simp [taken, List.range_succ_eq_map, Function.comp_def]
    · rw [Bool.or_eq_true, clamped, List.length_cons, Nat.exists_lt_succ_left]

/-- The error of a training symbol is formed with the clipped output. -/
theorem trainingError_output (e : Engine) (x r : Cplx) (taps : List Cplx) :
    trainingError r (Claims.output e x taps) = ⟨r.re.toInt - Claims.limited (Claims.outRe e x taps),
      r.im.toInt - Claims.limited (Claims.outIm e x taps)⟩ := by
  simp only [trainingError, Claims.output, toInt_limited]

/-- A coefficient as one training symbol moves it, not yet clamped. -/
theorem changedTap_take (x r : Cplx) (taps : List Cplx) (shift : Nat) {k : Nat} (hk : k < 32) :
    (e.take x).changedTap shift (trainingError r (Claims.output e x taps)) k (taps.getD k ⟨0, 0⟩) =
      ⟨Claims.movedRe e x r taps shift k, Claims.movedIm e x r taps shift k⟩ := by
  simp only [Engine.changedTap, coefficientChange, placesBack_take e x hk, trainingError_output, roundShift_change]
  rfl

theorem adapt_of_shift {n : Nat} (hn : e.shift = some n) (set : CoefficientSet) (r output : Cplx) :
    e.adapt set r output = { e with
      working := some { set with taps := (e.adaptTaps n (trainingError r output) 0 set.taps).1 },
      saturated := e.saturated || (e.adaptTaps n (trainingError r output) 0 set.taps).2 } := by
  simp only [Engine.adapt, hn]

/-- One training symbol on an adapting engine. -/
theorem train_eq (hw : e.working = some f) (hf : f.taps.length ≤ 32) {n : Nat} (hn : e.shift = some n) (x r : Cplx) :
    e.train x r = Claims.trained e f n x r := by
  let error := trainingError r (Claims.output e x f.taps)
  obtain ⟨taps, clamped⟩ := adaptTaps_eq (e.take x) n error f.taps 0
    (fun k => ⟨Claims.movedRe e x r f.taps n k, Claims.movedIm e x r f.taps n k⟩) fun j hj => by
      rw [Nat.zero_add, changedTap_take x r f.taps n (by omega)]
  simp only [limited_eq, exceeds_iff] at taps clamped
  have mark : ((e.take x).adaptTaps n error 0 f.taps).2 = decide (∃ k < f.taps.length,
      Claims.limited (Claims.movedRe e x r f.taps n k) ≠ Claims.movedRe e x r f.taps n k ∨
        Claims.limited (Claims.movedIm e x r f.taps n k) ≠ Claims.movedIm e x r f.taps n k) := by
    rw [Bool.eq_iff_iff, clamped, decide_eq_true_iff]
  simp only [Engine.train, filterSet_take hw, output_take hw hf]
  rw [adapt_of_shift (e := e.take x) hn, taps, mark]
  rfl

/-- The training buffer takes the pair while it has room (R101). -/
theorem keep_eq (e : Engine) (x r : Cplx) : e.keep x r =
    { e with training := if e.training.length < 64 then e.training ++ [(x, r)] else e.training } := by
  unfold Engine.keep
  split <;> rfl

end

/-! ### SYMBOL on an engine (R70) -/

/-- A SYMBOL of a burst in EQUALISED mode: what its engine makes of it, the clip count, and the output. -/
theorem symbol_equalised {c : Channel} {s : State} {w : Window} {e : EngineId} {f : CoefficientSet}
    (hu : unicastInProgress (s.burst c) = some w) (hm : (s.burst c).mode = .equalised)
    (he : (s.burst c).engine = .granted e) (hf : (s.engine e).working = some f) (hl : f.taps.length ≤ 32)
    (x : Cplx) (reference : Option Cplx) : exec (.symbol c x reference) s = .next
      (((s.setEngine e ((s.engine e).handle x reference)).setBurst c
        { s.burst c with clips := Claims.clipsAfter (s.engine e) x f.taps (s.burst c).clips }).emit c
        (.symbol (Claims.output (s.engine e) x f.taps))) := by
  have equalised : symbol c x reference s = equaliseSymbol c e x reference s := by
    simp only [symbol, hu, hm, he]
  refine congrArg Host.Outcome.next (equalised.trans ?_)
  simp only [equaliseSymbol, moreClips_take hf hl, output_take hf hl]

/-- Settles O20: without adaptation the engine only takes the sample and moves its write position on. -/
theorem symbolIsFilteredAndClipped : Obligations.SymbolIsFilteredAndClipped := by
  intro c x reference s w e f hw hk hs hm he hf hl plain
  have filtered : (s.engine e).handle x reference = ((s.engine e).take x).advance := by
    rcases plain with rfl | unarmed
    · rfl
    · cases reference with
      | none => rfl
      | some r => exact if_neg (by simp [unarmed])
  rw [symbol_equalised (unicastInProgress_of hw hk (inProgress_of_served hs)) hm he hf hl, filtered]
  rfl

/-- Settles O21: an adapting engine trains on the symbol and keeps the pair while its buffer has room. -/
theorem trainingSymbolAdaptsCoefficients : Obligations.TrainingSymbolAdaptsCoefficients := by
  intro c x r s w e f n hw hk hs hm he hf hl armed shift
  have trained : (s.engine e).handle x (some r) = (Claims.trained (s.engine e) f n x r).keep x r := by
    rw [← train_eq hf hl shift]
    exact if_pos armed
  rw [symbol_equalised (unicastInProgress_of hw hk (inProgress_of_served hs)) hm he hf hl, trained, keep_eq]
  rfl

end Sys2Proof.Machine
end

section
/-! The END of a contention burst and what it hands to the Probe List; the NORMAL END of a DATA burst, and of a MAINT
burst that does not settle (R74, R75, R77 to R80, R102, R116 to R119). -/

namespace Sys2Proof.Machine

/-! ### The Probe List takes a claim (R116 to R119) -/

theorem holdsToken_iff (probes : List Probe) (t : Token) : holdsToken probes t = true ↔ ∃ p ∈ probes, p.token = t := by
  simp [holdsToken]

theorem holdsToken_unlisted {probes : List Probe} {t : Token} (h : ∀ p ∈ probes, p.token ≠ t) :
    ¬ holdsToken probes t = true := by
  rw [holdsToken_iff]
  rintro ⟨p, hp, ht⟩
  exact h p hp ht

/-- An entry refreshed by a claim of its own token. -/
theorem refreshProbe_eq {x : ProbeClaim} {p : Probe} (h : p.token = x.token) :
    refreshProbe x p = ⟨x.token, x.channel, x.arrival, x.errors, min 255 (p.sightings + 1), 0⟩ := by
  have sightings : (if p.sightings < 255 then p.sightings + 1 else 255) = min 255 (p.sightings + 1) := by
    split <;> omega
  rw [refreshProbe, h, sightings]

theorem takeClaim_refreshes {x : ProbeClaim} {s : State} (h : ∃ p ∈ s.probes, p.token = x.token) :
    takeClaim x s = { s with probes := s.probes.map fun p => if p.token = x.token then
      ⟨x.token, x.channel, x.arrival, x.errors, min 255 (p.sightings + 1), 0⟩ else p } := by
  have refreshed : (s.probes.map fun p => if p.token = x.token then refreshProbe x p else p) =
      s.probes.map fun p => if p.token = x.token then
        ⟨x.token, x.channel, x.arrival, x.errors, min 255 (p.sightings + 1), 0⟩ else p :=
    List.map_congr_left fun p _ => ite_congr rfl refreshProbe_eq fun _ => rfl
  rw [takeClaim, if_pos ((holdsToken_iff _ _).mpr h), refreshed]

theorem takeClaim_enters {x : ProbeClaim} {s : State} (h : ∀ p ∈ s.probes, p.token ≠ x.token)
    (room : s.probes.length < 16) : takeClaim x s = { s with probes := s.probes ++ [newProbe x] } := by
  rw [takeClaim, if_neg (holdsToken_unlisted h)]
  exact if_pos room

theorem takeClaim_overflows {x : ProbeClaim} {s : State} (h : ∀ p ∈ s.probes, p.token ≠ x.token)
    (full : 16 ≤ s.probes.length) : takeClaim x s = { s with probeOverflow := true } := by
  rw [takeClaim, if_neg (holdsToken_unlisted h)]
  exact if_neg (Nat.not_lt.mpr full)

/-! ### The END of a contention burst (R74, R79, R80) -/

theorem burstEnd_contention {c : Channel} {w : Window} {s : State} (hw : (s.burst c).window = some w)
    (hk : w.kind = .contention) (hs : (s.burst c).state = .live ∨ (s.burst c).state = .grace) (power frequency : Int) :
    burstEnd c power frequency s = endContention c w power frequency s := by
  rw [burstEnd, contentionInProgress_iff.mpr ⟨hw, inProgress_of_served hs, hk⟩]

/-- An END with no burst in progress is ignored. -/
theorem burstEnd_idle {c : Channel} {s : State} (h : (s.burst c).state = .closed ∨ (s.burst c).state = .opened)
    (power frequency : Int) : burstEnd c power frequency s = s := by
  rw [burstEnd, contentionInProgress_outside (h.imp_right .inl), unicastInProgress_outside (h.imp_right .inl)]

/-- A clean burst with a claim marked valid hands it on with its measurements. -/
theorem probeClaim_valid {b : Burst} {token : Token} {capture : Capture} (hd : b.disturbed = false)
    (hc : b.claim = some ⟨token, true⟩) (ha : b.capture = some capture) (c : Channel) (w : Window)
    (power frequency : Int) : b.probeClaim c w power frequency =
      some ⟨token, c, capture.tick, Claims.measured capture w.start power frequency⟩ := by
  simp only [Burst.probeClaim, hd, hc, ha, measure_eq ha, if_true]

/-- A DISTURBED burst, one with no claim and one with a claim marked invalid hand nothing on. -/
theorem probeClaim_none {b : Burst} (h : b.disturbed = true ∨ b.claim = none ∨ ∃ token, b.claim = some ⟨token, false⟩)
    (c : Channel) (w : Window) (power frequency : Int) : b.probeClaim c w power frequency = none := by
  unfold Burst.probeClaim
  split
  · next x capture clean claimed captured =>
    rcases h with disturbed | unclaimed | ⟨token, invalid⟩
    · simp [disturbed] at clean
    · simp [unclaimed] at claimed
    · rw [← Option.some.inj (invalid.symm.trans claimed)]
      rfl
  · rfl

theorem endContention_handsOn {c : Channel} {w : Window} {s : State} {power frequency : Int} {x : ProbeClaim}
    (h : (s.burst c).probeClaim c w power frequency = some x) : endContention c w power frequency s =
      (takeClaim x (endGrace c s)).setBurst c (Claims.endedBurst (s.burst c)) := by
  rw [endContention, h]
  rfl

theorem endContention_handsNothing {c : Channel} {w : Window} {s : State} {power frequency : Int}
    (h : (s.burst c).probeClaim c w power frequency = none) : endContention c w power frequency s =
      (endGrace c s).setBurst c (Claims.endedBurst (s.burst c)) := by
  rw [endContention, h]
  rfl

/-- Settles O23: what the burst hands on is one claim or none, and the Probe List takes a claim in one of three ways. -/
theorem contentionEndHandsClaimOn : Obligations.ContentionEndHandsClaimOn := by
  refine ⟨?_, fun c power frequency s => ⟨fun w hw hk hs nothing => congrArg Host.Outcome.next ?_,
    fun idle => congrArg Host.Outcome.next (burstEnd_idle idle power frequency)⟩⟩
  · intro c power frequency s w token capture hw hk hs hd hc ha m u
    have handed : exec (.burstEnd c power frequency) s = .next
        ((takeClaim ⟨token, c, capture.tick, m⟩ (endGrace c s)).setBurst c (Claims.endedBurst (s.burst c))) :=
      congrArg Host.Outcome.next ((burstEnd_contention hw hk hs power frequency).trans
        (endContention_handsOn (probeClaim_valid hd hc ha c w power frequency)))
    refine ⟨fun listed => ?_, fun unlisted room => ?_, fun unlisted full => ?_⟩
    · rw [handed, takeClaim_refreshes (by exact listed)]
      rfl
    · rw [handed, takeClaim_enters (by exact unlisted) (by exact room)]
      rfl
    · rw [handed, takeClaim_overflows (by exact unlisted) (by exact full)]
      rfl
  · rw [burstEnd_contention hw hk hs, endContention_handsNothing (probeClaim_none nothing c w power frequency)]
    rfl

/-! ### The NORMAL END of a unicast burst (R75, R77, R102) -/

/-- A NORMAL END of a DATA burst on a record that is not RETIRING: the record is written and then given up. -/
theorem endRecord_normalData {c : Channel} {w : Window} {i : Slot} {capture : Capture} {s : State}
    (hg : w.grant = .data) (hd : (s.burst c).disturbed = false) (hc : (s.burst c).capture = some capture)
    (hr : (s.station i).state ≠ .retiring) (power frequency : Int) :
    endRecord (s.burst c) w i power frequency (endGrace c s) =
      endPlain (s.burst c) i (Claims.normalEnd c i .data (Claims.measured capture w.start power frequency) s) := by
  have kept : ((endGrace c s).station i).state ≠ .retiring := hr
  have clean : ¬ (s.burst c).disturbed = true := by simp [hd]
  rw [endRecord, if_neg kept, if_neg clean, if_neg (by simp [hg]), measure_eq hc, writeMeasured_eq, hg]
  rfl

theorem outcome_normal {b : Burst} (h : b.disturbed = false) : b.outcome = .normal := by
  simp [Burst.outcome, h]

/-- Settles O24: the record is written, and then engine and record are given up as at any plain END. -/
theorem dataEndWritesAndUnbindsRecord : Obligations.DataEndWritesAndUnbindsRecord := by
  intro c power frequency s w i capture h hg hd hc hr
  rw [burstEnd_ending h, endRecord_normalData hg hd hc hr, endPlain_eq, outcome_normal hd]

theorem endMaint_granted {b : Burst} {e : EngineId} (h : b.engine = .granted e) (i : Slot) (errors : Offsets)
    (s : State) : endMaint b i errors s = endMaintOnEngine e i errors s := by
  rw [endMaint, h]

/-- On an engine that did not adapt, or has no passes to make, the completion says "all passes done". -/
theorem endMaintOnEngine_plain {e : EngineId} {s : State} (h : (s.engine e).armed = false ∨ (s.engine e).passes = 0)
    (i : Slot) (errors : Offsets) :
    endMaintOnEngine e i errors s = releaseEngine e (complete (liveReport (s.engine e) i errors true) s) := by
  refine if_neg ?_
  rcases h with h | h <;> simp [h]

/-- With passes to make and a request waiting, the completion says "not all passes". -/
theorem endMaintOnEngine_asked {e : EngineId} {s : State} (adapts : (s.engine e).armed = true)
    (passes : 0 < (s.engine e).passes) (asked : s.waiting ≠ []) (i : Slot) (errors : Offsets) :
    endMaintOnEngine e i errors s = releaseEngine e (complete (liveReport (s.engine e) i errors false) s) := by
  rw [endMaintOnEngine]
  exact (if_pos (by simp [adapts, passes])).trans (if_neg (by simpa using asked))

/-- Settles O27: BYPASS has no engine to hand on, and an engine that may not settle completes at once. -/
theorem maintEndCompletesWithoutSettling : Obligations.MaintEndCompletesWithoutSettling := by
  intro c power frequency s w i capture h hg hd hc hr errors written
  have handed : exec (.burstEnd c power frequency) s =
      .next (Claims.ends c .normal (endMaint (s.burst c) i errors written)) := by
    rw [burstEnd_ending h, endRecord_normalMaint hg hd hc hr, outcome_normal hd]
  refine ⟨fun bypass => ?_, fun e he plain => ?_, fun e he adapts passes asked => ?_⟩
  · rw [handed, endMaint, bypass]
    rfl
  · rw [handed, endMaint_granted he, endMaintOnEngine_plain (by exact plain), releaseEngine_eq]
    rfl
  · rw [handed, endMaint_granted he, endMaintOnEngine_asked (by exact adapts) (by exact passes) (by exact asked),
      releaseEngine_eq]
    rfl

end Sys2Proof.Machine
end

section
/-! The arbiter with no engine IDLE pre-empts the earliest settling, and a settling engine's pass completes (R88, R89,
R91, R104 to R106). -/

namespace Sys2Proof.Machine

/-! ### The pre-empted engine (R89) -/

theorem completeSettling_eq {e : EngineId} {j : Slot} {errors : Offsets} {s : State} (hj : (s.engine e).slot = some j)
    (ho : (s.engine e).errors = some errors) (all : Bool) :
    completeSettling e all s = complete (settlingReport (s.engine e) j errors all) s := by
  rw [completeSettling, hj, ho]

theorem before_asymm {a b : Tick} (h : Claims.before a b) : ¬ Claims.before b a := by
  unfold Claims.before at h ⊢
  bv_omega

theorem settledLonger_iff {s : State} {a b : EngineId} {x y : Tick} (hx : (s.engine a).settlingStart = some x)
    (hy : (s.engine b).settlingStart = some y) :
    settledLonger s a b = true ↔ Claims.before x y ∨ (x = y ∧ a < b) := by
  simp only [settledLonger, hx, hy, Bool.or_eq_true, Bool.and_eq_true, decide_eq_true_eq, isBefore_iff]

/-- Engine `e` settles since `x`, and every other settling engine since a later tick, or since the same tick with a
higher number. -/
structure SettlesEarliest (s : State) (e : EngineId) (x : Tick) : Prop where
  settling : (s.engine e).state = .settling
  start : (s.engine e).settlingStart = some x
  first : ∀ d, d ≠ e → (s.engine d).state = .settling →
    ∃ y, (s.engine d).settlingStart = some y ∧ (Claims.before x y ∨ (x = y ∧ e < d))

theorem SettlesEarliest.settledLonger {s : State} {e d : EngineId} {x : Tick} (h : SettlesEarliest s e x) (hd : d ≠ e)
    (settling : (s.engine d).state = .settling) : settledLonger s e d = true ∧ settledLonger s d e = false := by
  obtain ⟨y, hy, later⟩ := h.first d hd settling
  refine ⟨(settledLonger_iff h.start hy).mpr later, Bool.eq_false_iff.mpr fun back => ?_⟩
  rcases later with before | ⟨same, lower⟩ <;>
    rcases (settledLonger_iff hy h.start).mp back with before' | ⟨same', lower'⟩
  · exact before_asymm before before'
  · subst same'; exact before_asymm before before
  · subst same; exact before_asymm before' before'
  · exact lt_asymm lower lower'

theorem find?_eq_of_only {α : Type} {p : α → Bool} {l : List α} {a : α} (mem : a ∈ l) (ha : p a = true)
    (only : ∀ b ∈ l, p b = true → b = a) : l.find? p = some a := by
  obtain ⟨b, hb⟩ := Option.isSome_iff_exists.mp (List.find?_isSome.mpr ⟨a, mem, ha⟩)
  rw [hb, only b (List.mem_of_find?_eq_some hb) (List.find?_some hb)]

/-- The settling that started before every other is the one pre-empted. -/
theorem preemptedEngine_earliest {s : State} {e : EngineId} {x : Tick} (h : SettlesEarliest s e x) :
    preemptedEngine s = (some e, s) := by
  have mem (d : EngineId) : d ∈ settlingEngines s ↔ (s.engine d).state = .settling := by simp [settlingEngines]
  have found : (settlingEngines s).find? (fun a => (settlingEngines s).all fun b =>
      a = b || Machine.settledLonger s a b) = some e := by
    refine find?_eq_of_only ((mem e).mpr h.settling) (List.all_eq_true.mpr fun b hb => ?earliest) fun a ha all => ?only
    case earliest =>
      by_cases same : b = e
      · simp [same]
      · simp [(h.settledLonger same ((mem b).mp hb)).1]
    case only =>
      by_contra differ
      have outlasts := List.all_eq_true.mp all e ((mem e).mpr h.settling)
      simp [differ, (h.settledLonger differ ((mem a).mp ha)).2] at outlasts
  simp only [preemptedEngine, found]

/-- With no engine IDLE a request takes the engine that has settled longest, its completion first (R88, R89). -/
theorem requestEngine_preempts (q : EngineRequest) {s : State} {e : EngineId} {x : Tick} {j : Slot} {errors : Offsets}
    (busy : ∀ d, (s.engine d).state ≠ .idle) (h : SettlesEarliest s e x) (hj : (s.engine e).slot = some j)
    (ho : (s.engine e).errors = some errors) :
    requestEngine q s = grantEngine e q (complete (settlingReport (s.engine e) j errors false) s) := by
  have noneIdle : idleEngine s = none := by simp [idleEngine, busy]
  rw [requestEngine, noneIdle]
  dsimp only
  rw [preemptedEngine_earliest h]
  dsimp only
  rw [completeSettling_eq hj ho]

/-! ### A completion leaves the other records (R139 to R146) -/

section

variable {i j : Slot} (h : i ≠ j) (s : State)
include h

theorem addAttentionIf_otherStation (b : Bool) (k : AttentionKind) :
    (addAttentionIf b j k s).station i = s.station i := by
  rw [addAttentionIf_eq]
  exact station_setStation_ne s j i _ h.symm

theorem requestCorrection_otherStation : (requestCorrection j s).station i = s.station i := by
  unfold requestCorrection
  cases (s.station j).correction with
  | none =>
    dsimp only
    split
    · exact station_setStation_ne s j i _ h.symm
    · exact station_setStation_ne s j i _ h.symm
  | held => rfl
  | queued => exact station_setStation_ne s j i _ h.symm

theorem unbind_otherStation : (unbind j s).station i = s.station i := by
  rw [unbind_eq, Claims.unbound]
  split
  · exact station_setStation_ne _ j i _ h.symm
  · exact station_setStation_ne s j i _ h.symm

end

theorem complete_otherStation {i : Slot} {p : Report} (h : i ≠ p.slot) (s : State) :
    (complete p s).station i = s.station i := by
  have marked (c : Counted) : (addAttentionIf p.saturated p.slot .saturated (addAttentionIf c.done p.slot .programmeDone
      (s.setStation p.slot c.record))).station i = s.station i := by
    rw [addAttentionIf_otherStation h, addAttentionIf_otherStation h, station_setStation_ne _ _ _ _ h.symm]
  unfold complete
  dsimp only
  split
  · rw [unbind_otherStation h]
    split
    · rw [requestCorrection_otherStation h, marked]
    · exact marked _
  · rw [unbind_otherStation h, addAttentionIf_otherStation h]

/-- The request of a burst just begun on an unbound record takes the engine that has settled longest on another. -/
theorem requestEngine_earliest {c : Channel} {w : Window} {i j : Slot} {e : EngineId} {x : Tick} {errors : Offsets}
    {s : State} (hw : (s.burst c).window = some w) (busy : ∀ d, (s.engine d).state ≠ .idle)
    (earliest : SettlesEarliest s e x) (hj : (s.engine e).slot = some j) (other : i ≠ j)
    (ho : (s.engine e).errors = some errors) (capture : Capture) :
    requestEngine ⟨c, i, w.grant, capture⟩
      ((s.setStation i { s.station i with binding := .burst c }).setBurst c
        { (s.burst c).started capture (some i) with engine := .requested, state := .waiting }) =
      ((complete (settlingReport (s.engine e) j errors false)
        (s.setStation i { s.station i with binding := .burst c })).setBurst c
        (Claims.begun w i capture (.granted e) .live)).setEngine e (Claims.loaded c i w.grant s) := by
  let p := settlingReport (s.engine e) j errors false
  let bound := s.setStation i { s.station i with binding := .burst c }
  let begun : Burst := { (s.burst c).started capture (some i) with engine := .requested, state := .waiting }
  have preempted : requestEngine ⟨c, i, w.grant, capture⟩ (bound.setBurst c begun) =
      grantEngine e ⟨c, i, w.grant, capture⟩ (complete p (bound.setBurst c begun)) :=
    requestEngine_preempts _ (s := bound.setBurst c begun) busy
      ⟨earliest.settling, earliest.start, earliest.first⟩ hj ho
  have record : (complete p bound).station i = bound.station i := complete_otherStation other bound
  have descriptors : (complete p bound).descriptors = s.descriptors := (complete_frame p bound).descriptors
  have loaded : Claims.loaded c i w.grant ((complete p bound).setBurst c begun) = Claims.loaded c i w.grant s := by
    simp [Claims.loaded, record, bound, State.descriptor, descriptors]
  rw [preempted, complete_setBurst, grantEngine_eq]
  dsimp only
  rw [loaded, burst_setBurst_same]
  simp only [setEngine_setBurst, setBurst_setBurst, begun, Burst.started, Claims.begun, hw, if_true, p, bound]

/-- Settles O15: nobody holds the record, so the burst begins on it at once and its request pre-empts the settling. -/
theorem detectPreemptsEarliestSettling : Obligations.DetectPreemptsEarliestSettling := by
  intro c phase s w i j e x errors h unbound busy settling start first hj other ho
  rw [detect_bindable h, beginUnicast, unbound]
  exact congrArg Host.Outcome.next (requestEngine_earliest h.window busy ⟨settling, start, first⟩ hj other.symm ho
    ⟨s.counter, phase⟩)

/-! ### A pass completes (R104, R105) -/

section

variable {n : Nat}

theorem train_working {e : Engine} {f : CoefficientSet} (hw : e.working = some f) (hf : f.taps.length ≤ 32)
    (hn : e.shift = some n) (x r : Cplx) :
    ∃ g, (e.train x r).working = some g ∧ g.taps.length = f.taps.length ∧ (e.train x r).shift = some n := by
  rw [train_eq hw hf hn]
  exact ⟨_, rfl, by simp, hn⟩

/-- Training on pairs in order, as the statements fold it. -/
theorem foldl_train_eq (pairs : List (Cplx × Cplx)) (default : CoefficientSet) {e : Engine} {f : CoefficientSet}
    (hw : e.working = some f) (hf : f.taps.length ≤ 32) (hn : e.shift = some n) :
    pairs.foldl (fun x p => x.train p.1 p.2) e =
      pairs.foldl (fun x p => Claims.trained x (x.working.getD default) n p.1 p.2) e := by
  induction pairs generalizing e f with
  | nil => rfl
  | cons p rest ih =>
    obtain ⟨g, working, length, shift⟩ := train_working hw hf hn p.1 p.2
    have first : Claims.trained e (e.working.getD default) n p.1 p.2 = e.train p.1 p.2 := by
      rw [hw, train_eq hw hf hn]
      rfl
    rw [List.foldl_cons, List.foldl_cons, first]
    exact ih working (by omega) shift

end

/-- The engine without what training writes. -/
def Engine.untrained (e : Engine) : Engine :=
  { e with working := none, saturated := false, delayLine := Vector.replicate 32 Cplx.zero, writePos := 0 }

theorem train_untrained (e : Engine) (x r : Cplx) : (e.train x r).untrained = e.untrained := by
  unfold Engine.train Engine.adapt
  dsimp only
  split <;> rfl

theorem runPass_untrained (e : Engine) : e.runPass.untrained = e.untrained := by
  unfold Engine.runPass
  generalize e.training = pairs
  induction pairs generalizing e with
  | nil => rfl
  | cons p rest ih => exact (ih _).trans (train_untrained e p.1 p.2)

/-- A pass writes the set, the mark, the delay line and the write position, and nothing else of the engine. -/
theorem runPass_eq (e : Engine) : e.runPass = { e with
    working := e.runPass.working, saturated := e.runPass.saturated, delayLine := e.runPass.delayLine,
    writePos := e.runPass.writePos } :=
  congrArg (fun x : Engine => { x with
    working := e.runPass.working, saturated := e.runPass.saturated, delayLine := e.runPass.delayLine,
    writePos := e.runPass.writePos }) (runPass_untrained e)

/-- A pass with more to come: it is counted and checkpointed, and the next one starts. -/
theorem completePass_more {e : EngineId} {s : State} (h : (s.engine e).passesDone + 1 < (s.engine e).passes) :
    completePass e s = s.setEngine e { s.engine e with
      working := (s.engine e).runPass.working, saturated := (s.engine e).runPass.saturated,
      passesDone := (s.engine e).passesDone + 1, checkpoint := (s.engine e).runPass.working,
      checkpointMark := (s.engine e).runPass.saturated, delayLine := Vector.replicate 32 Cplx.zero,
      writePos := 0 } := by
  unfold completePass
  rw [runPass_eq]
  exact if_pos h

/-- The last pass: the completion is taken with the set and the mark it left, and the engine released. -/
theorem completePass_last {e : EngineId} {s : State} {i : Slot} {errors : Offsets}
    (h : (s.engine e).passes ≤ (s.engine e).passesDone + 1) (hi : (s.engine e).slot = some i)
    (ho : (s.engine e).errors = some errors) :
    completePass e s = releaseEngine e (complete ⟨i, errors, (s.engine e).runPass.working, (s.engine e).generation,
      true, (s.engine e).runPass.saturated⟩ s) := by
  unfold completePass
  rw [runPass_eq]
  refine (if_neg (Nat.not_lt.mpr h)).trans ?_
  rw [completeSettling_setEngine, releaseEngine_setEngine]
  simp only [Engine.endPass, hi, ho]
  rfl

/-- Settles O28: the pass is the training on each pair in order; counted, it is the last one or not. -/
theorem passCompletionCheckpointsOrCompletes : Obligations.PassCompletionCheckpointsOrCompletes := by
  refine ⟨fun e s idle => congrArg Host.Outcome.next (if_neg idle), ?_⟩
  intro e s f n settling hw hf hn x
  have pass : exec (.passCompletion e) s = .next (completePass e s) := congrArg Host.Outcome.next (if_pos settling)
  have trained : (s.engine e).runPass = x := foldl_train_eq _ f hw hf hn
  rw [pass]
  refine ⟨fun more => ?_, fun i errors last hi ho => ?_⟩
  · rw [completePass_more more, trained]
    rfl
  · rw [completePass_last last hi ho, trained, releaseEngine_eq]

end Sys2Proof.Machine
end

section
/-! What a maintenance completion leaves in the estimates, the set and the rest of its record, and what it does on a
disarmed programme (R110, R132, R133, R139 to R141). -/

namespace Sys2Proof.Machine

/-! ### What the walk over the chain writes (R140, R141) -/

/-- An item that every step naming it sets to one value, and every other step leaves, over a whole chain. -/
theorem foldl_chainStep_item {α : Type} {p : Report} {Inv : Walk → Prop} {item : Walk → α} {named : Descriptor → Bool}
    {value : α} (kept : ∀ w d, Inv w → Inv (chainStep p w d))
    (step : ∀ w d, Inv w → item (chainStep p w d) = if named d then value else item w) (steps : List Descriptor)
    {w : Walk} (h : Inv w) :
    item (steps.foldl (chainStep p) w) = if ∃ d ∈ steps, named d = true then value else item w := by
  induction steps generalizing w with
  | nil => simp
  | cons d rest ih =>
    rw [List.foldl_cons, ih (kept w d h), step w d h]
    by_cases later : ∃ x ∈ rest, named x = true
    · simp [later]
    · cases first : named d <;> simp [later, first]

theorem coefficientStep_estimate (d : Descriptor) (p : Report) (w : Walk) :
    (coefficientStep d p w).record.estimate = w.record.estimate := by
  unfold coefficientStep
  split
  · dsimp only
    split
    · rfl
    · split <;> rfl
  · rfl

/-- A step writes the estimates its mask names: the advertised value plus the measured error, clamped. -/
theorem chainStep_estimate {p : Report} {r : Station} {w : Walk} (h : WalkOn p r w) (d : Descriptor) :
    (chainStep p w d).record.estimate =
      { timing := if d.mask.timing then Claims.forcedTiming (r.advertised.timing + p.errors.timing)
          else w.record.estimate.timing
        power := if d.mask.power then Claims.forcedPower (r.advertised.power + p.errors.power)
          else w.record.estimate.power
        frequency := if d.mask.frequency then Claims.forcedFrequency (r.advertised.frequency + p.errors.frequency)
          else w.record.estimate.frequency } := by
  rw [chainStep, coefficientStep_estimate, ← h.advertised]
  unfold frequencyStep powerStep timingStep
  cases d.mask.timing <;> cases d.mask.power <;> cases d.mask.frequency <;>
    simp [clampTiming_eq, clampPower_eq, clampFrequency_eq]

/-- The walk over a chain writes each estimate that some step names. -/
theorem walkChain_estimate (p : Report) (r : Station) (steps : List Descriptor) :
    (walkChain p r steps).record.estimate =
      { timing := if ∃ d ∈ steps, d.mask.timing = true then
          Claims.forcedTiming (r.advertised.timing + p.errors.timing) else r.estimate.timing
        power := if ∃ d ∈ steps, d.mask.power = true then
          Claims.forcedPower (r.advertised.power + p.errors.power) else r.estimate.power
        frequency := if ∃ d ∈ steps, d.mask.frequency = true then
          Claims.forcedFrequency (r.advertised.frequency + p.errors.frequency) else r.estimate.frequency } := by
  have start : WalkOn p r ⟨r, true, none⟩ := ⟨rfl, nofun⟩
  have kept (w : Walk) (d : Descriptor) (h : WalkOn p r w) : WalkOn p r (chainStep p w d) := (chainStep_on h d).1
  have timing := foldl_chainStep_item (item := fun w => w.record.estimate.timing) kept
    (fun w d h => congrArg Offsets.timing (chainStep_estimate h d)) steps start
  have power := foldl_chainStep_item (item := fun w => w.record.estimate.power) kept
    (fun w d h => congrArg Offsets.power (chainStep_estimate h d)) steps start
  have frequency := foldl_chainStep_item (item := fun w => w.record.estimate.frequency) kept
    (fun w d h => congrArg Offsets.frequency (chainStep_estimate h d)) steps start
  rw [← timing, ← power, ← frequency]
  rfl

/-- The walk holds its record's own set until it has tried the write-back, and then the set written back, if there was
one (R110, R141). -/
structure SetTried (p : Report) (r : Station) (w : Walk) : Prop extends WalkOn p r w where
  set : w.record.coefficients =
    if w.writeBack = none then r.coefficients else (writeBackSet p r).or r.coefficients

theorem measureSteps_set (d : Descriptor) (p : Report) (w : Walk) :
    (frequencyStep d p (powerStep d p (timingStep d p w))).record.coefficients = w.record.coefficients ∧
      (frequencyStep d p (powerStep d p (timingStep d p w))).writeBack = w.writeBack := by
  unfold frequencyStep powerStep timingStep
  cases d.mask.timing <;> cases d.mask.power <;> cases d.mask.frequency <;> exact ⟨rfl, rfl⟩

theorem writeBackSet_congr {p : Report} {r r' : Station} (h : r'.generation = r.generation) :
    writeBackSet p r' = writeBackSet p r := by
  rw [writeBackSet, writeBackSet, h]

/-- A step that names COEFFICIENTS leaves the set as the write-back leaves it, any other as it was. -/
theorem coefficientStep_set {p : Report} {r : Station} {w : Walk} (h : SetTried p r w) (d : Descriptor) :
    SetTried p r (coefficientStep d p w) ∧ (coefficientStep d p w).record.coefficients =
      if d.mask.coefficients then (writeBackSet p r).or r.coefficients else w.record.coefficients := by
  obtain ⟨on, set⟩ := h
  have onStep := (coefficientStep_on on d).1
  have same : writeBackSet p w.record = writeBackSet p r := writeBackSet_congr on.generation
  suffices (coefficientStep d p w).record.coefficients =
      (if (coefficientStep d p w).writeBack = none then r.coefficients else (writeBackSet p r).or r.coefficients) ∧
      (coefficientStep d p w).record.coefficients =
        if d.mask.coefficients then (writeBackSet p r).or r.coefficients else w.record.coefficients from
    ⟨⟨onStep, this.1⟩, this.2⟩
  unfold coefficientStep
  cases d.mask.coefficients with
  | false => exact ⟨set, rfl⟩
  | true =>
    cases tried : w.writeBack with
    | some b => simpa [tried] using set
    | none =>
      cases written : writeBackSet p r with
      | some x => simp [same, written]
      | none => simpa [same, written, tried] using set

theorem chainStep_set {p : Report} {r : Station} {w : Walk} (h : SetTried p r w) (d : Descriptor) :
    SetTried p r (chainStep p w d) ∧ (chainStep p w d).record.coefficients =
      if d.mask.coefficients then (writeBackSet p r).or r.coefficients else w.record.coefficients := by
  obtain ⟨set, writeBack⟩ := measureSteps_set d p w
  have on := ((h.toWalkOn.timingStep d).powerStep d).frequencyStep d
  rw [← set]
  exact coefficientStep_set ⟨on, by rw [set, writeBack, h.set]⟩ d

/-- The walk over a chain writes the set back where some step names COEFFICIENTS and the write-back is not skipped. -/
theorem walkChain_coefficients (p : Report) (r : Station) (steps : List Descriptor) :
    (walkChain p r steps).record.coefficients = if ∃ d ∈ steps, d.mask.coefficients = true then
      (writeBackSet p r).or r.coefficients else r.coefficients :=
  foldl_chainStep_item (Inv := SetTried p r) (item := fun w => w.record.coefficients)
    (fun _ d h => (chainStep_set h d).1) (fun _ d h => (chainStep_set h d).2) steps
    (w := ⟨r, true, none⟩) ⟨⟨rfl, nofun⟩, rfl⟩

theorem writeBackSet_of_writtenBack {p : Report} {r : Station} (h : Claims.writtenBack p r)
    (x : Option CoefficientSet) : (writeBackSet p r).or x = p.set := by
  obtain ⟨generation, present⟩ := h
  rw [writeBackSet, if_pos generation, Option.or_of_isSome (Option.isSome_iff_ne_none.mpr present)]

theorem writeBackSet_of_not_writtenBack {p : Report} {r : Station} (h : ¬ Claims.writtenBack p r)
    (x : Option CoefficientSet) : (writeBackSet p r).or x = x := by
  rw [← writeBackSet_isSome, Option.not_isSome_iff_eq_none] at h
  rw [h, Option.none_or]

/-! ### The rest of the record (R139, R142 to R146) -/

/-- The record without what a count writes. -/
def Station.uncounted (r : Station) : Station := { r with armed := false, remaining := 0 }

theorem countRun_uncounted (d : Descriptor) (r : Station) (v : Verdict) :
    (countRun d r v).record.uncounted = r.uncounted := by
  unfold countRun
  dsimp only
  split
  · rfl
  · split <;> rfl

/-- The record without what a completion writes after the walk over its chain. -/
def Station.untold (r : Station) : Station :=
  { r.uncounted.unmoved with
    lastVerdict := .none, exportWanted := false, correction := .none, reCorrect := false, attention := .empty,
    binding := .none }

theorem untold_of_uncounted {r r' : Station} (h : r'.uncounted = r.uncounted) : r'.untold = r.untold := by
  have untold := congrArg Station.untold h
  exact untold

theorem toldRecord_untold (p : Report) (v : Verdict) (done : Bool) (steps : List Descriptor) (r : Station) :
    (toldRecord p v done steps r).untold = r.untold := by
  have moved := congrArg Station.untold (moveRecord_unmoved p.saturated v r)
  exact moved

theorem requestCorrection_untold (i : Slot) (s : State) :
    ((requestCorrection i s).station i).untold = (s.station i).untold := by
  have written {r : Station} (h : r.untold = (s.station i).untold) :
      ((s.setStation i r).station i).untold = (s.station i).untold := by rw [station_setStation_same, h]
  unfold requestCorrection
  cases (s.station i).correction with
  | none =>
    dsimp only
    split
    · exact written rfl
    · exact written rfl
  | held => rfl
  | queued => exact written rfl

theorem requestedUnless_untold (settled : Prop) [Decidable settled] (i : Slot) (s : State) :
    ((if settled then s else requestCorrection i s).station i).untold = (s.station i).untold := by
  split
  · rfl
  · exact requestCorrection_untold i s

theorem unbound_untold (r : Station) : ({ r with binding := .none } : Station).untold = r.untold := rfl

/-- After the walk an armed completion writes only the programme's count, the state and class, what is told of, and the
binding. -/
theorem complete_untold {p : Report} {s : State} (armed : (s.station p.slot).armed = true)
    (notRetiring : (s.station p.slot).state ≠ .retiring) :
    ((complete p s).station p.slot).untold =
      (walkChain p (s.station p.slot) (Claims.chain s (s.station p.slot).vector)).record.untold ∧
    ((complete p s).station p.slot).binding = .none := by
  have on := (walkChain_on p (s.station p.slot) (chainSteps s (s.station p.slot).vector)).1
  have counted : (completedRun s p).record.uncounted = _ := countRun_uncounted _ _ _
  have unrun : (completedRun s p).record.unrun = (s.station p.slot).unrun := by
    have run := congrArg Station.unmeasured counted
    have walked := congrArg Station.uncounted on.record
    exact run.trans walked
  have told := complete_told armed notRetiring rfl unrun
  dsimp only at told
  rw [told, station_setStation_same, unbound_untold, requestedUnless_untold, station_with_counts,
    station_setStation_same, toldRecord_untold, ← chainSteps_eq]
  exact ⟨untold_of_uncounted counted, rfl⟩

/-! ### The completion on a disarmed programme (R139) -/

/-- SATURATED joins a record, its count rising where the record lacked it (R12). -/
theorem addAttentionIf_saturated (i : Slot) (s : State) : addAttentionIf true i .saturated s =
    { s.setStation i { s.station i with attention := { (s.station i).attention with saturated := true } } with
      counts := if (s.station i).attention.saturated then s.counts
        else { s.counts with saturated := s.counts.saturated + 1 } } := by
  rw [addAttentionIf_eq, Bool.or_true]
  have counts : s.counts.put (s.counts.get .saturated +
      if true = true ∧ (s.station i).attention.has .saturated = false then 1 else 0) .saturated =
      if (s.station i).attention.saturated then s.counts
        else { s.counts with saturated := s.counts.saturated + 1 } := by
    cases h : (s.station i).attention.saturated <;>
      simp [Attention.has, AttentionCounts.put, AttentionCounts.get, h]
  rw [counts]
  rfl

theorem complete_disarmed {p : Report} {s : State} (disarmed : (s.station p.slot).armed = false)
    (notRetiring : (s.station p.slot).state ≠ .retiring) :
    complete p s = (addAttentionIf p.saturated p.slot .saturated s).setStation p.slot
      { (addAttentionIf p.saturated p.slot .saturated s).station p.slot with binding := .none } := by
  rw [← unbind_of _ (by rwa [addAttentionIf_state])]
  exact if_neg (by simp [disarmed])

/-- Settles O29: the walk's writes by quantity, the rest of the record kept, and without a programme the mark alone. -/
theorem completionWritesEstimatesAndSet : Obligations.CompletionWritesEstimatesAndSet := by
  refine ⟨fun p s armed notRetiring => ?armed, fun p s disarmed notRetiring => ?disarmed⟩
  case armed =>
    intro r steps r'
    obtain ⟨untold, unbound⟩ := complete_untold armed notRetiring
    have on := (walkChain_on p r steps).1
    have walked {α : Type} (item : Station → α) : item r'.untold = item (walkChain p r steps).record.untold :=
      congrArg item untold
    have kept {α : Type} (item : Station → α) : item r'.untold.unmeasured = item r.untold.unmeasured :=
      (congrArg (fun x => item x.unmeasured) untold).trans (congrArg (fun x => item x.untold) on.record)
    have estimate : r'.estimate = _ := (walked Station.estimate).trans (walkChain_estimate p r steps)
    have set : r'.coefficients = _ := (walked Station.coefficients).trans (walkChain_coefficients p r steps)
    have unnamed {named : Descriptor → Bool} (h : ∀ d ∈ steps, named d = false) : ¬ ∃ d ∈ steps, named d = true := by
      simpa using h
    rw [estimate, set]
    refine ⟨fun h => if_pos h, fun h => if_neg (unnamed h), fun h => if_pos h, fun h => if_neg (unnamed h),
      fun h => if_pos h, fun h => if_neg (unnamed h), fun h written => ?set, fun h => ?ownSet, kept Station.advertised,
      kept Station.lastMeasured, kept Station.generation, kept Station.sid, kept Station.channel,
      kept Station.missReload, kept Station.missesRemaining, kept Station.vector, unbound⟩
    case set => rw [if_pos h, writeBackSet_of_writtenBack written]
    case ownSet =>
      rcases h with h | unwritten
      · exact if_neg (unnamed h)
      · rw [writeBackSet_of_not_writtenBack unwritten, ite_self]
  case disarmed =>
    intro r
    rw [complete_disarmed disarmed notRetiring]
    refine ⟨fun clear => ?_, fun marked => ?_⟩
    · rw [clear]
      rfl
    · rw [marked, addAttentionIf_saturated]
      simp only [station_with_counts, station_setStation_same]
      simp only [State.setStation, Vector.set_set]
      rfl

end Sys2Proof.Machine
end

section
/-! RETIRE: the identity goes with the correction and the attention, and the record by its holder (R107, R160, R162,
R172 to R175). -/

namespace Sys2Proof.Machine

/-! ### The correction withdrawn (R152, R153, R160, R162) -/

theorem buildCorrection_eq (i : Slot) (r : Station) : buildCorrection i r = Claims.entryOf i r := by
  cases h : r.lastVerdict <;> simp [buildCorrection, Claims.entryOf, Offsets.minus, Verdict.told, h]

section

variable {i : Slot} {s : State}

/-- A withdrawal never writes the record itself: the head of the Held List is another. -/
theorem withdrawn_station (h : (s.station i).correction = .queued → s.held.head? ≠ some i) :
    (Claims.withdrawn i s).station i = s.station i := by
  unfold Claims.withdrawn
  split
  · rfl
  · rfl
  · rfl
  · next head rest queued held =>
    have other : head ≠ i := fun same => h queued (by rw [held, same]; rfl)
    exact station_setStation_ne s head i _ other

theorem withdrawn_counts : (Claims.withdrawn i s).counts = s.counts := by
  unfold Claims.withdrawn
  split <;> rfl

theorem withdrawn_setSidEntry (v : Sid) (x : Option Slot) :
    Claims.withdrawn i (s.setSidEntry v x) = (Claims.withdrawn i s).setSidEntry v x := by
  unfold Claims.withdrawn
  dsimp only [setSidEntry_station, setSidEntry_held]
  split <;> rfl

/-- The freed place goes to the head of the Held List, another record than the one whose correction is cleared. -/
theorem refill_clearCorrection {head : Slot} {rest : List Slot} (held : s.held = head :: rest) (other : head ≠ i) :
    refill (clearCorrection i s) = clearCorrection i
      { s.setStation head { s.station head with correction := .queued, reCorrect := false } with
        queue := s.queue ++ [Claims.entryOf head (s.station head)], held := rest } := by
  let cleared : Station := { s.station i with correction := .none, reCorrect := false }
  let entered : Station := { s.station head with correction := .queued, reCorrect := false }
  have headKept : (s.setStation i cleared).station head = s.station head := station_setStation_ne s i head _ other.symm
  have selfKept : (s.setStation head entered).station i = s.station i := station_setStation_ne s head i _ other
  calc refill (clearCorrection i s)
      = enterQueue head { s.setStation i cleared with held := rest } := by
        rw [refill, show (clearCorrection i s).held = head :: rest from held]
        rfl
    _ = { (s.setStation i cleared).setStation head { (s.setStation i cleared).station head with
            correction := .queued, reCorrect := false } with
          queue := s.queue ++ [buildCorrection head ((s.setStation i cleared).station head)], held := rest } := rfl
    _ = { (s.setStation head entered).setStation i { (s.setStation head entered).station i with
            correction := .none, reCorrect := false } with
          queue := s.queue ++ [Claims.entryOf head (s.station head)], held := rest } := by
        rw [headKept, selfKept, buildCorrection_eq, setStation_comm s i head _ _ other.symm]

/-- Withdrawal at RETIRE: what the statements name, and the correction of the record itself cleared. -/
theorem withdrawCorrection_eq (h : (s.station i).correction = .queued → s.held.head? ≠ some i) :
    withdrawCorrection i s = clearCorrection i (Claims.withdrawn i s) := by
  unfold withdrawCorrection Claims.withdrawn
  cases state : (s.station i).correction with
  | none => rfl
  | held => rfl
  | queued =>
    cases held : s.held with
    | nil => rfl
    | cons head rest =>
      have other : head ≠ i := fun same => h state (by rw [held, same]; rfl)
      exact refill_clearCorrection rfl other

end

/-! ### The identity gone (R172) -/

theorem clearAttention_eq (i : Slot) (s : State) : clearAttention i s =
    { s.setStation i { s.station i with attention := ⟨false, false, false⟩ } with
      counts := Claims.countsWithout s.counts (s.station i).attention } := by
  have all : clearAttention i s = dropKinds i [.staleNew, .programmeDone, .saturated] s := rfl
  have left : (s.station i).attention.without [.staleNew, .programmeDone, .saturated] = ⟨false, false, false⟩ := by
    simp [Attention.without]
  have gone : (s.station i).attention.among [.staleNew, .programmeDone, .saturated] = (s.station i).attention := by
    simp [Attention.among]
  rw [all, dropKinds_eq, left, gone]

theorem countsWithout_none (n : AttentionCounts) : Claims.countsWithout n ⟨false, false, false⟩ = n := rfl

/-- The part once a record's SID Map entry, its correction and the counts of its attention are gone (R172). -/
def identityGone (v : Sid) (i : Slot) (s : State) : State :=
  State.setSidEntry { Claims.withdrawn i s with counts := Claims.countsWithout s.counts (s.station i).attention } v none

/-- The record after steps 1 to 4 of R172: disarmed, without correction and attention. -/
def Station.stripped (r : Station) : Station :=
  { r with armed := false, remaining := 0, correction := .none, reCorrect := false, attention := ⟨false, false, false⟩ }

/-- Steps 1 to 4 of R172. -/
theorem retireIdentity_eq {v : Sid} {i : Slot} {s : State}
    (h : (s.station i).correction = .queued → s.held.head? ≠ some i) :
    retireIdentity v i s = (identityGone v i s).setStation i (s.station i).stripped := by
  have withdrawn : withdrawCorrection i (s.setSidEntry v none) =
      clearCorrection i ((Claims.withdrawn i s).setSidEntry v none) := by
    rw [withdrawCorrection_eq (by exact h), withdrawn_setSidEntry]
  have station : (Claims.withdrawn i s).station i = s.station i := withdrawn_station h
  rw [retireIdentity, withdrawn, clearAttention_eq, clearCorrection]
  simp only [setSidEntry_station, station, station_setStation_same, setStation_setStation, setStation_counts,
    setSidEntry_counts, withdrawn_counts]
  rfl

/-! ### The record by its holder (R107, R173 to R175) -/

/-- A record without attention becomes FREE without a change of the counts. -/
theorem becomeFree_stripped (i : Slot) (r : Station) (s : State) :
    becomeFree i (s.setStation i r.stripped) = s.setStation i Station.reset := by
  rw [becomeFree_eq, station_setStation_same]
  simp only [Station.stripped, countsWithout_none, State.setStation, Vector.set_set]

section

variable {i : Slot} {s : State}

theorem retireRecord_unbound (h : (s.station i).binding = .none) : retireRecord i s = becomeFree i s := by
  rw [retireRecord, h]

theorem retireRecord_settling {e : EngineId} (h : (s.station i).binding = .settling e) :
    retireRecord i s = Claims.released e (becomeFree i s) := by
  rw [retireRecord, h]
  exact releaseEngine_eq e _

theorem retireRecord_burst {c : Channel} (h : (s.station i).binding = .burst c) :
    retireRecord i s = s.setStation i { s.station i with state := .retiring } := by
  rw [retireRecord, h]

theorem station_released (e : EngineId) : (Claims.released e s).station i = s.station i := by
  rw [← releaseEngine_eq, releaseEngine_station]

end

/-- RETIRE answers the slot and the state the record ends in (R172). -/
theorem exec_retire {v : BitVec 16} {i : Slot} {s t : State} (hs : s.link.sending = none)
    (hv : Claims.sidNames s v i) (hq : (s.station i).correction = .queued → s.held.head? ≠ some i)
    (ht : retireRecord i ((identityGone (Fin.ofNat 4096 v.toNat) i s).setStation i (s.station i).stripped) = t) :
    exec (.retire v) s = .next (t.answered .ok (Claims.two i.val ++ [recordStateByte (t.station i).state])) := by
  obtain ⟨low, high, entry⟩ := hv
  refine exec_accepted (Option.some_ne_none _) hs ?_
  simp only [requestEffect, retireRequest, readSid_of low high, entry, retireIdentity_eq hq, ht, slotBytes,
    unsigned16_eq]

/-- Settles O43: with the identity gone, the record is freed or made RETIRING by its holder, and its state answered. -/
theorem retireByHolderAndCorrection : Obligations.RetireByHolderAndCorrection := by
  intro v i s hs hv hq r gone
  have binding : ((gone.setStation i r.stripped).station i).binding = r.binding := by
    rw [station_setStation_same]
    rfl
  refine ⟨fun unbound => ?_, fun e settling => ?_, fun c burst => ?_⟩
  · have retired := retireRecord_unbound (binding.trans unbound)
    rw [becomeFree_stripped] at retired
    rw [exec_retire hs hv hq retired, station_setStation_same]
    rfl
  · have retired := retireRecord_settling (binding.trans settling)
    rw [becomeFree_stripped] at retired
    rw [exec_retire hs hv hq retired, station_released, station_setStation_same]
    rfl
  · have retired := retireRecord_burst (binding.trans burst)
    rw [station_setStation_same, setStation_setStation] at retired
    rw [exec_retire hs hv hq retired, station_setStation_same]
    rfl

end Sys2Proof.Machine
end

section
/-! Requests on the Probe List: PROBES and DISMISS (R114, R115, R123, R124). -/

namespace Sys2Proof.Machine

/-! ### PROBES (R123, R197) -/

theorem probeBytes_eq (p : Probe) : probeBytes p = Claims.probeField p := by
  rw [probeBytes, Claims.probeField, offsetBytes_eq]
  rfl

theorem probesRequest_listed {position : Byte} (h : position.toNat ≤ 15) (s : State) :
    probesRequest position s = accept (BitVec.ofNat 8 s.probes.length :: position ::
      ((s.probes.drop position.toNat).take 12).flatMap Claims.probeField) s := by
  rw [probesRequest, if_pos h, funext probeBytes_eq, byteOfNat]

theorem probesRequest_beyond {position : Byte} (h : 16 ≤ position.toNat) (s : State) :
    probesRequest position s = refuse .range s :=
  if_neg (Nat.not_le.mpr h)

/-! ### DISMISS (R115, R124) -/

/-- The entry that alone carries the token leaves, and those after it move up (R115). -/
theorem removeProbe_eq {s : State} {before after : List Probe} {p : Probe} {t : Token}
    (hs : s.probes = before ++ p :: after) (hp : p.token = t) (others : ∀ q ∈ before ++ after, q.token ≠ t) :
    removeProbe t s = { s with probes := before ++ after } := by
  rw [removeProbe, hs, filter_others hp others]

theorem dismissRequest_listed {s : State} {before after : List Probe} {p : Probe} {t : Token}
    (hs : s.probes = before ++ p :: after) (hp : p.token = t) (others : ∀ q ∈ before ++ after, q.token ≠ t) :
    dismissRequest t s =
      accept [BitVec.ofNat 8 (before ++ after).length] { s with probes := before ++ after } := by
  have listed : ∃ q ∈ s.probes, q.token = t := ⟨p, by simp [hs], hp⟩
  rw [dismissRequest, if_pos ((holdsToken_iff _ _).mpr listed), removeProbe_eq hs hp others]
  rfl

theorem dismissRequest_unlisted {s : State} {t : Token} (h : ∀ p ∈ s.probes, p.token ≠ t) :
    dismissRequest t s = refuse .notFound s :=
  if_neg (holdsToken_unlisted h)

/-- Settles O47: the position alone decides PROBES, and whether an entry carries the token decides DISMISS. -/
theorem probesReportsAndDismissRemoves : Obligations.ProbesReportsAndDismissRemoves := by
  refine ⟨fun position s hs => ⟨fun low => ?listed, fun high => ?beyond⟩,
    fun token s hs => ⟨fun before p after list carries others => ?removed, fun unlisted => ?unknown⟩⟩
  case listed => exact exec_accepted (Option.some_ne_none _) hs (probesRequest_listed low s)
  case beyond => exact exec_refused (Option.some_ne_none _) hs (probesRequest_beyond high s)
  case removed => exact exec_accepted (Option.some_ne_none _) hs (dismissRequest_listed list carries others)
  case unknown => exact exec_refused (Option.some_ne_none _) hs (dismissRequest_unlisted unlisted)

end Sys2Proof.Machine
end

section
/-! Maintenance programmes: ARM and DISARM PROGRAMME, and the requests on descriptors (R128 to R137). -/

namespace Sys2Proof.Machine

/-! ### ARM PROGRAMME and DISARM PROGRAMME (R136, R137) -/

section

variable {sid : BitVec 16} {s : State}

/-- The SID is checked before the vector is read, so the vector need not be told (R136). -/
theorem armProgrammeRequest_refused {status : Status} (h : Claims.sidRefusal s sid status) (vector : Byte) :
    armProgrammeRequest sid vector s = refuse status s :=
  withSid_refused h _

theorem armProgrammeRequest_badVector {i : Slot} (hv : Claims.sidNames s sid i) {vector : Byte}
    (h : 128 ≤ vector.toNat) : armProgrammeRequest sid vector s = refuse .range s := by
  rw [armProgrammeRequest, withSid_named hv, readIndex_none h]

theorem byteOfNat_index {vector : Byte} {d : DescriptorId} (h : vector.toNat = d.val) : byteOfNat d.val = vector := by
  rw [byteOfNat, ← h, BitVec.ofNat_toNat, BitVec.setWidth_eq]

theorem armProgrammeRequest_named {i : Slot} (hv : Claims.sidNames s sid i) {vector : Byte} {d : DescriptorId}
    (h : vector.toNat = d.val) : armProgrammeRequest sid vector s =
      accept [vector, BitVec.ofNat 8 (s.descriptor d).count] (s.setStation i (armRecord s d (s.station i))) := by
  rw [armProgrammeRequest, withSid_named hv, readIndex_of h]
  dsimp only
  rw [byteOfNat_index h, byteOfNat]

theorem disarmProgrammeRequest_refused {status : Status} (h : Claims.sidRefusal s sid status) :
    disarmProgrammeRequest sid s = refuse status s :=
  withSid_refused h _

theorem disarmProgrammeRequest_named {i : Slot} (hv : Claims.sidNames s sid i) :
    disarmProgrammeRequest sid s = accept [] (s.setStation i (disarmRecord (s.station i))) :=
  withSid_named hv _

end

/-- Settles O45: the SID decides first, then the vector; nothing else refuses either request. -/
theorem programmesArmAndDisarm : Obligations.ProgrammesArmAndDisarm := by
  refine ⟨fun sid vector status s hs unnamed => ⟨?armRefused, ?disarmRefused⟩,
    fun sid vector i s hs named => ⟨fun d index => ?armed, fun beyond => ?badVector, ?disarmed⟩⟩
  case armRefused => exact exec_refused (Option.some_ne_none _) hs (armProgrammeRequest_refused unnamed vector)
  case disarmRefused => exact exec_refused (Option.some_ne_none _) hs (disarmProgrammeRequest_refused unnamed)
  case armed => exact exec_accepted (Option.some_ne_none _) hs (armProgrammeRequest_named named index)
  case badVector => exact exec_refused (Option.some_ne_none _) hs (armProgrammeRequest_badVector named beyond)
  case disarmed => exact exec_accepted (Option.some_ne_none _) hs (disarmProgrammeRequest_named named)

/-! ### The descriptor block of a response (R197) -/

/-- Four flags in bits 0 to 3 of a byte are the sum of their weights. -/
theorem flagNibble_eq (b0 b1 b2 b3 : Bool) :
    ((0 : BitVec 4) ++ BitVec.ofBool b3 ++ BitVec.ofBool b2 ++ BitVec.ofBool b1 ++ BitVec.ofBool b0 : Byte) =
      BitVec.ofNat 8 ((if b0 then 1 else 0) + (if b1 then 2 else 0) + (if b2 then 4 else 0) + (if b3 then 8 else 0)) := by
  revert b0 b1 b2 b3
  decide

theorem descriptorFlags_eq (d : Descriptor) : descriptorFlags d =
    BitVec.ofNat 8 ((if d.mode = .repeating then 1 else 0) + (if d.noticeOnRepeat then 2 else 0) +
      (if d.chain then 4 else 0) + (if d.exportSet then 8 else 0)) := by
  rw [descriptorFlags, flagNibble_eq]
  simp only [decide_eq_true_eq]

theorem maskByte_eq (m : UpdateMask) : maskByte m =
    BitVec.ofNat 8 ((if m.timing then 1 else 0) + (if m.power then 2 else 0) +
      (if m.frequency then 4 else 0) + (if m.coefficients then 8 else 0)) :=
  flagNibble_eq m.timing m.power m.frequency m.coefficients

theorem encode_descriptorBlock (d : Descriptor) : (descriptorBlock d).encode = Claims.blockOf d := by
  have timing : bytes16 (BitVec.ofNat 16 d.timingThreshold) = Claims.two d.timingThreshold := unsigned16_eq _
  have frequency : bytes16 (BitVec.ofNat 16 d.frequencyThreshold) = Claims.two d.frequencyThreshold := unsigned16_eq _
  simp only [DescriptorBlock.encode, descriptorBlock, Claims.blockOf, descriptorFlags_eq, maskByte_eq, timing, frequency,
    byteOfNat]

/-! ### READ DESCRIPTOR (R131) -/

theorem readDescriptorRequest_named {index : Byte} {d : DescriptorId} (h : index.toNat = d.val) (s : State) :
    readDescriptorRequest index s = accept (index :: Claims.blockOf (s.descriptor d)) s := by
  rw [readDescriptorRequest, readIndex_of h]
  dsimp only
  rw [encode_descriptorBlock]

theorem readDescriptorRequest_beyond {index : Byte} (h : 128 ≤ index.toNat) (s : State) :
    readDescriptorRequest index s = refuse .range s := by
  rw [readDescriptorRequest, readIndex_none h]

/-! ### SET DESCRIPTOR (R129) -/

/-- The descriptor whose fields a block spells, whatever their ranges (R128, R197). -/
def spelledDescriptor (b : DescriptorBlock) : Descriptor where
  mode := if b.flags.getLsbD 0 then .repeating else .once
  count := b.count.toNat
  noticeOnRepeat := b.flags.getLsbD 1
  chain := b.flags.getLsbD 2
  mask := ⟨b.mask.getLsbD 0, b.mask.getLsbD 1, b.mask.getLsbD 2, b.mask.getLsbD 3⟩
  timingThreshold := b.timingThreshold.toNat
  powerThreshold := b.powerThreshold.toNat
  frequencyThreshold := b.frequencyThreshold.toNat
  passes := b.passes.toNat
  coarseShift := b.coarseShift.toNat
  fineShift := b.fineShift.toNat
  exportSet := b.flags.getLsbD 3

/-- A block that passes checks 2 to 4 of R129 is read as the descriptor it spells. -/
theorem readDescriptorBlock_eq_some {b : DescriptorBlock} (h : Claims.blockInRange b) :
    readDescriptorBlock b = some (spelledDescriptor b) := by
  obtain ⟨flags, mask, count, timing, power, frequency, passes, coarse, ordered, fine⟩ := h
  simp [readDescriptorBlock, readMask, spelledDescriptor, flags, mask, count, timing, power, frequency, passes, coarse,
    ordered, fine]

theorem readDescriptorBlock_eq_none {b : DescriptorBlock} (h : ¬ Claims.blockInRange b) :
    readDescriptorBlock b = none := by
  unfold readDescriptorBlock readMask
  by_cases mask : b.mask.toNat < 16
  · rw [if_pos mask]
    refine if_neg fun checks => h ?_
    simp only [Bool.and_eq_true, decide_eq_true_eq] at checks
    obtain ⟨⟨⟨⟨⟨⟨⟨⟨flags, count⟩, timing⟩, power⟩, frequency⟩, passes⟩, coarse⟩, fine⟩, ordered⟩ := checks
    exact ⟨flags, mask, count, timing, power, frequency, passes, coarse, ordered, fine⟩
  · rw [if_neg mask]

theorem setDescriptorRequest_named {index : Byte} {d : DescriptorId} {b : DescriptorBlock} (h : index.toNat = d.val)
    (ranges : Claims.blockInRange b) (s : State) :
    setDescriptorRequest index b s = accept [index] (s.setDescriptor d (spelledDescriptor b)) := by
  rw [setDescriptorRequest, readIndex_of h, readDescriptorBlock_eq_some ranges]

/-- Every check of R129 refuses with RANGE, so their order need not be told. -/
theorem setDescriptorRequest_refused {index : Byte} {b : DescriptorBlock}
    (h : 128 ≤ index.toNat ∨ ¬ Claims.blockInRange b) (s : State) :
    setDescriptorRequest index b s = refuse .range s := by
  rcases h with beyond | outside
  · rw [setDescriptorRequest, readIndex_none beyond]
  · rw [setDescriptorRequest, readDescriptorBlock_eq_none outside]
    cases readIndex index <;> rfl

/-- Settles O53: the index alone decides READ DESCRIPTOR; the index and the ranges of the block decide SET DESCRIPTOR. -/
theorem descriptorsAreReadAndReplaced : Obligations.DescriptorsAreReadAndReplaced := by
  refine ⟨fun index s hs => ⟨fun d named => ?read, fun beyond => ?notRead, descriptor_resetWith⟩,
    fun index b s hs => ⟨fun d named ranges => ?replaced, fun out => ?notReplaced⟩⟩
  case read => exact exec_accepted (Option.some_ne_none _) hs (readDescriptorRequest_named named s)
  case notRead => exact exec_refused (Option.some_ne_none _) hs (readDescriptorRequest_beyond beyond s)
  case replaced => exact exec_accepted (Option.some_ne_none _) hs (setDescriptorRequest_named named ranges s)
  case notReplaced => exact exec_refused (Option.some_ne_none _) hs (setDescriptorRequest_refused out s)

end Sys2Proof.Machine
end

section
/-! The Correction Unit: a correction request by the record's correction state, and TAKE CORRECTION (R152 to R161). -/

namespace Sys2Proof.Machine

/-! ### A correction request (R153 to R156) -/

theorem enterQueue_eq (i : Slot) (s : State) : enterQueue i s =
    { s.setStation i { s.station i with correction := .queued, reCorrect := false } with
      queue := s.queue ++ [Claims.entryOf i (s.station i)] } := by
  rw [enterQueue, buildCorrection_eq]

section

variable {i : Slot} {s : State}

theorem requestCorrection_enters (h : (s.station i).correction = .none) (room : s.queue.length < queueCapacity) :
    requestCorrection i s = enterQueue i s := by
  rw [requestCorrection, h]
  exact if_pos room

theorem requestCorrection_waits (h : (s.station i).correction = .none) (full : queueCapacity ≤ s.queue.length) :
    requestCorrection i s = enterHeld i s := by
  rw [requestCorrection, h]
  exact if_neg (Nat.not_lt.mpr full)

theorem requestCorrection_held (h : (s.station i).correction = .held) : requestCorrection i s = s := by
  rw [requestCorrection, h]

theorem requestCorrection_queued (h : (s.station i).correction = .queued) :
    requestCorrection i s = s.setStation i { s.station i with reCorrect := true } := by
  rw [requestCorrection, h]

end

/-- Settles O31: a record without a correction finds room in the queue or waits; the other two states decide alone. -/
theorem correctionRequestByState : Obligations.CorrectionRequestByState := by
  intro i s r
  refine ⟨fun unasked room => ?entered, fun unasked full => ?waiting, requestCorrection_held, requestCorrection_queued⟩
  case entered => exact (requestCorrection_enters unasked room).trans (enterQueue_eq i s)
  case waiting => exact requestCorrection_waits unasked full

/-! ### The entry taken (R157 to R159, R198) -/

theorem identity_eq (count : TapCount) (main : Nat) : CoefficientSet.identity count main =
    ⟨count, main, (List.range count.toNat).map fun k => if k = main then ⟨0x7FFF, 0⟩ else ⟨0, 0⟩⟩ := rfl

/-- Steps 2 to 4 of R157 on the record. -/
theorem applyTaken_cleared (e : Correction) (r : Station) :
    { applyTaken e r with correction := .none, reCorrect := false } = Claims.afterTake e r := by
  cases set : e.coefficients <;>
    simp [applyTaken, Claims.afterTake, set, identity_eq, Offsets.plus, Offsets.clamped, clampTiming_eq, clampPower_eq,
      clampFrequency_eq]

theorem correctionBlock_eq (e : Correction) : correctionBlock e = Claims.correctionField e := by
  simp only [correctionBlock, Claims.correctionField, slotBytes, sidBytes, adjustBytes, unsigned16_eq, signed16_eq,
    signed24_eq, verdictByte_eq, coefficientBytes_eq, List.append_assoc]

/-- The part once the head of the queue is taken and its record moved, before the refill (steps 1 to 4 of R157). -/
def headTaken (e : Correction) (rest : List Correction) (s : State) : State :=
  { s.setStation e.slot (Claims.afterTake e (s.station e.slot)) with queue := rest }

theorem headTaken_station (e : Correction) (rest : List Correction) (s : State) :
    (headTaken e rest s).station e.slot = Claims.afterTake e (s.station e.slot) :=
  station_setStation_same s e.slot _

theorem headTaken_otherStation {e : Correction} {h : Slot} (other : h ≠ e.slot) (rest : List Correction) (s : State) :
    (headTaken e rest s).station h = s.station h :=
  station_setStation_ne s e.slot h _ other.symm

theorem clearCorrection_moved (e : Correction) (rest : List Correction) (s : State) :
    clearCorrection e.slot (State.setStation { s with queue := rest } e.slot (applyTaken e (s.station e.slot))) =
      headTaken e rest s := by
  rw [clearCorrection, station_setStation_same, setStation_setStation, applyTaken_cleared]
  rfl

theorem takeEntry_eq (e : Correction) (rest : List Correction) (s : State) : takeEntry e rest s =
    if (s.station e.slot).reCorrect then requestCorrection e.slot (refill (headTaken e rest s))
    else refill (headTaken e rest s) := by
  rw [takeEntry, clearCorrection_moved]

theorem takeEntry_once {e : Correction} {s : State} (flag : (s.station e.slot).reCorrect = false)
    (rest : List Correction) : takeEntry e rest s = refill (headTaken e rest s) := by
  rw [takeEntry_eq, flag, if_neg Bool.false_ne_true]

theorem takeEntry_again {e : Correction} {s : State} (flag : (s.station e.slot).reCorrect = true)
    (rest : List Correction) : takeEntry e rest s = requestCorrection e.slot (refill (headTaken e rest s)) := by
  rw [takeEntry_eq, if_pos flag]

/-! ### The freed place (R160) -/

theorem refill_empty {s : State} (h : s.held = []) : refill s = s := by rw [refill, h]

/-- The freed place goes to the head of the Held List, whose record is another than the one of the entry taken. -/
theorem refill_headTaken {e : Correction} {s : State} {h : Slot} {more : List Slot} (held : s.held = h :: more)
    (other : h ≠ e.slot) (rest : List Correction) : refill (headTaken e rest s) =
      { (s.setStation e.slot (Claims.afterTake e (s.station e.slot))).setStation h
          { s.station h with correction := .queued, reCorrect := false } with
        queue := rest ++ [Claims.entryOf h (s.station h)], held := more } := by
  have waiting : (headTaken e rest s).held = h :: more := held
  rw [refill, waiting]
  dsimp only
  rw [enterQueue_eq, station_with_held, headTaken_otherStation other]
  rfl

/-! ### The request once more (R161) -/

/-- With nobody held, a set re-correct flag brings the record back into the queue. -/
theorem requestCorrection_headTaken {e : Correction} {rest : List Correction} (room : rest.length < queueCapacity)
    (s : State) : requestCorrection e.slot (headTaken e rest s) =
      { s.setStation e.slot { Claims.afterTake e (s.station e.slot) with correction := .queued } with
        queue := rest ++ [Claims.entryOf e.slot (Claims.afterTake e (s.station e.slot))] } := by
  rw [requestCorrection_room (headTaken_station e rest s) rfl rfl room, buildCorrection_eq]
  simp only [headTaken, State.setStation, Vector.set_set]

/-- With the last place given to the head of the Held List, the record joins that list. -/
theorem requestCorrection_refilled {e : Correction} {rest : List Correction} {s : State} {h : Slot} {more : List Slot}
    (held : s.held = h :: more) (other : h ≠ e.slot) (last : rest.length = 31) :
    requestCorrection e.slot (refill (headTaken e rest s)) =
      { (s.setStation e.slot { Claims.afterTake e (s.station e.slot) with correction := .held }).setStation h
          { s.station h with correction := .queued, reCorrect := false } with
        queue := rest ++ [Claims.entryOf h (s.station h)], held := more ++ [e.slot] } := by
  let taken := Claims.afterTake e (s.station e.slot)
  let entered : Station := { s.station h with correction := .queued, reCorrect := false }
  have kept : ((s.setStation e.slot taken).setStation h entered).station e.slot = taken := by
    rw [station_setStation_ne _ h e.slot _ other, station_setStation_same]
  have moved : ((s.setStation e.slot taken).setStation h entered).setStation e.slot { taken with correction := .held } =
      (s.setStation e.slot { taken with correction := .held }).setStation h entered := by
    rw [setStation_comm _ h e.slot _ _ other, setStation_setStation]
  have full : queueCapacity ≤ (rest ++ [Claims.entryOf h (s.station h)]).length := by
    rw [List.length_append, last]
    exact Nat.le_refl 32
  rw [refill_headTaken held other, requestCorrection_full (r := taken) (by exact kept) rfl rfl (by exact full), ← moved]
  rfl

/-! ### TAKE CORRECTION (R157) -/

theorem takeCorrectionRequest_empty {s : State} (h : s.queue = []) : takeCorrectionRequest s = refuse .empty s := by
  rw [takeCorrectionRequest, h]

/-- On a queue that holds entries, the answer is the head's correction block and the number of entries then left. -/
theorem exec_takeCorrection {s t : State} {e : Correction} {rest : List Correction} {left : Nat}
    (hs : s.link.sending = none) (hq : s.queue = e :: rest) (ht : takeEntry e rest s = t) (hn : t.queue.length = left) :
    exec .takeCorrection s = .next (t.answered .ok (Claims.correctionField e ++ [BitVec.ofNat 8 left])) := by
  refine exec_accepted (Option.some_ne_none _) hs ?_
  rw [requestEffect, takeCorrectionRequest, hq]
  dsimp only
  rw [ht, hn, correctionBlock_eq, byteOfNat]

/-- Settles O46: the head taken, the Held List decides the refill, and the re-correct flag whether a request follows. -/
theorem takeCorrectionTakesHead : Obligations.TakeCorrectionTakesHead := by
  intro s hs
  refine ⟨fun empty => ?empty, fun e rest queue held flag => ?plain, fun e rest queue held flag room => ?again,
    fun e rest h more queue held other flag => ?refilled,
    fun e rest h more queue held other flag last => ?refilledAgain⟩
  case empty => exact exec_refused (Option.some_ne_none _) hs (takeCorrectionRequest_empty empty)
  case plain =>
    have taken := (takeEntry_once flag rest).trans (refill_empty held)
    exact exec_takeCorrection hs queue taken rfl
  case again =>
    have taken := takeEntry_again flag rest
    rw [refill_empty (by exact held), requestCorrection_headTaken room] at taken
    exact exec_takeCorrection hs queue taken List.length_append
  case refilled =>
    have taken := (takeEntry_once flag rest).trans (refill_headTaken held other rest)
    exact exec_takeCorrection hs queue taken List.length_append
  case refilledAgain =>
    have taken := (takeEntry_again flag rest).trans (requestCorrection_refilled held other last)
    exact exec_takeCorrection hs queue taken (List.length_append.trans (by rw [last]; rfl))

end Sys2Proof.Machine
end

section
/-! Misses and staleness: a miss by the record's state and its misses remaining (R12, R167, R168). -/

namespace Sys2Proof.Machine

/-! ### A kind joins a record (R12) -/

/-- The count rises only where the record lacked the kind. -/
theorem addAttention_eq (i : Slot) (k : AttentionKind) (s : State) : addAttention i k s =
    { s.setStation i { s.station i with attention := (s.station i).attention.put true k } with
      counts := if (s.station i).attention.has k then s.counts else s.counts.put (s.counts.get k + 1) k } := by
  have putGet : s.counts.put (s.counts.get k) k = s.counts := by cases k <;> rfl
  have joined : addAttention i k s = addAttentionIf true i k s := rfl
  rw [joined, addAttentionIf_eq, Bool.or_true]
  cases (s.station i).attention.has k with
  | true => exact congrArg (fun n => ({ s.setStation i _ with counts := n } : State)) putGet
  | false => rfl

/-! ### A miss (R167, R168) -/

section

variable {i : Slot} {s : State}

theorem countMiss_lowers (counting : (s.station i).state = .training ∨ (s.station i).state = .locked)
    (more : 2 ≤ (s.station i).missesRemaining) :
    countMiss i s = s.setStation i { s.station i with missesRemaining := (s.station i).missesRemaining - 1 } := by
  have left : 1 ≤ (s.station i).missesRemaining - 1 := Nat.le_sub_of_add_le more
  simp [countMiss, counting, left]

/-- The last miss writes the state STALE, and STALE-NEW joins the record then. -/
theorem countMiss_last (counting : (s.station i).state = .training ∨ (s.station i).state = .locked)
    (last : (s.station i).missesRemaining ≤ 1) :
    countMiss i s = addAttention i .staleNew
      (s.setStation i { s.station i with missesRemaining := 0, state := .stale }) := by
  have spent : ¬ 1 ≤ (s.station i).missesRemaining - 1 := by omega
  simp only [countMiss, Bool.or_eq_true, decide_eq_true_eq, if_pos counting, if_neg spent]

theorem countMiss_uncounted (training : (s.station i).state ≠ .training) (locked : (s.station i).state ≠ .locked) :
    countMiss i s = s := by
  simp [countMiss, training, locked]

end

/-- Settles O9: the three cases are a miss with more left, the last miss, and a record that counts no misses. -/
theorem missesBringStaleness : Obligations.MissesBringStaleness := by
  intro i s r
  refine ⟨countMiss_lowers, fun counting last => ?stale, fun uncounted => ?unchanged⟩
  case stale =>
    rw [countMiss_last counting last, addAttention_eq, station_setStation_same, setStation_setStation]
    rfl
  case unchanged =>
    have training : r.state ≠ .training := fun is => by simp [is] at uncounted
    have locked : r.state ≠ .locked := fun is => by simp [is] at uncounted
    exact countMiss_uncounted training locked

end Sys2Proof.Machine
end

section
/-! The Host Link's receiver: what each character does to it, the request a checksum character takes, and the frame of
a request against the request as one command (R181 to R186, R195). -/

namespace Sys2Proof.Machine

/-! ### Address and faulty characters (R181, R182) -/

/-- The strapped address has 3 bits and the character 8: they are compared as numbers. -/
theorem eq_address_iff (v : Byte) (address : BitVec 3) :
    v = address.setWidth 8 ↔ v.toNat = address.toNat := by
  rw [← BitVec.toNat_inj, BitVec.toNat_setWidth_of_le (by decide)]

theorem addressCharacter_matching {v : Byte} {s : State} (h : v.toNat = s.link.address.toNat) :
    addressCharacter v s = s.setReceiver .awaitCode := by
  rw [addressCharacter, if_pos ((eq_address_iff v _).mpr h)]

theorem addressCharacter_differing {v : Byte} {s : State} (h : v.toNat ≠ s.link.address.toNat) :
    addressCharacter v s = s.setReceiver .deselected := by
  rw [addressCharacter, if_neg (mt (eq_address_iff v _).mp h)]

theorem faultyCharacter_selected (f : CharacterFault) {s : State} (h : s.link.receiver ≠ .deselected) :
    faultyCharacter f s = { s with link := { s.link.setFault f with receiver := .discarding } } :=
  if_pos (decide_eq_true h)

theorem faultyCharacter_deselected (f : CharacterFault) {s : State} (h : s.link.receiver = .deselected) :
    faultyCharacter f s = s :=
  if_neg (by simp [Link.selected, h])

/-! ### Data characters, by the receiver state (R183) -/

/-- Where the receiver stands with a partial request whose length is known: at its checksum once every body character
has been received, in its body before. -/
def PartialRequest.awaiting (p : PartialRequest) : Receiver :=
  if p.received = p.length.toNat then .awaitChecksum p else .body p

section

variable {s : State} (v : Byte)

theorem dataCharacter_ignored (h : s.link.receiver = .deselected ∨ s.link.receiver = .discarding) :
    dataCharacter v s = s := by
  rcases h with h | h <;> rw [dataCharacter, h]

theorem dataCharacter_code (h : s.link.receiver = .awaitCode) :
    dataCharacter v s = s.setReceiver (.awaitLength v v) := by
  rw [dataCharacter, h]

theorem dataCharacter_length {code sum : Byte} (h : s.link.receiver = .awaitLength code sum) :
    dataCharacter v s = s.setReceiver (PartialRequest.awaiting ⟨code, v, [], 0, sum + v⟩) := by
  rw [dataCharacter, h, PartialRequest.awaiting]
  dsimp only
  rcases Nat.eq_zero_or_pos v.toNat with zero | pos
  · rw [if_neg (Nat.not_lt.mpr zero.le), if_pos zero.symm]
  · rw [if_pos pos, if_neg pos.ne]

theorem dataCharacter_body {p : PartialRequest} (h : s.link.receiver = .body p) :
    dataCharacter v s = s.setReceiver (p.more v).awaiting := by
  rw [dataCharacter, h]
  rfl

theorem dataCharacter_checksum {p : PartialRequest} (h : s.link.receiver = .awaitChecksum p) :
    dataCharacter v s = takeRequest (frameEffect p v) s.awaitCode := by
  rw [dataCharacter, h]

end

/-- A partial request without body characters is complete exactly where its length is 0. -/
theorem PartialRequest.awaiting_empty (code length sum : Byte) :
    PartialRequest.awaiting ⟨code, length, [], 0, sum⟩ =
      if length = 0 then .awaitChecksum ⟨code, length, [], 0, sum⟩ else .body ⟨code, length, [], 0, sum⟩ := by
  have complete : (0 = length.toNat) ↔ length = 0 := by rw [eq_comm, ← BitVec.toNat_inj]; rfl
  rw [PartialRequest.awaiting]
  exact if_congr complete rfl rfl

/-- Settles O32: each character replaces the receiver, by its value, by whether the part is selected, or by the receiver
state it finds. -/
theorem charactersMoveReceiver : Obligations.CharactersMoveReceiver := by
  refine ⟨fun v s => ⟨fun same => ?selects, fun other => ?deselects⟩,
    fun s => ⟨fun selected => ⟨?framing, ?parity⟩, fun f deselected => ?unheard⟩,
    fun v s => ⟨fun idle => ?ignored, fun code => ?code, fun code sum length => ?length, fun p body => ?body⟩⟩
  case selects => exact congrArg Host.Outcome.next (addressCharacter_matching same)
  case deselects => exact congrArg Host.Outcome.next (addressCharacter_differing other)
  case framing => exact congrArg Host.Outcome.next (faultyCharacter_selected .framing selected)
  case parity => exact congrArg Host.Outcome.next (faultyCharacter_selected .parity selected)
  case unheard => exact congrArg Host.Outcome.next (faultyCharacter_deselected f deselected)
  case ignored => exact congrArg Host.Outcome.next (dataCharacter_ignored v idle)
  case code => exact congrArg Host.Outcome.next (dataCharacter_code v code)
  case length =>
    rw [← PartialRequest.awaiting_empty]
    exact congrArg Host.Outcome.next (dataCharacter_length v length)
  case body => exact congrArg Host.Outcome.next (dataCharacter_body v body)

/-! ### The checksum character (R184, R186) -/

section

variable {s : State} {p : PartialRequest} {v : Byte}

/-- A frame that fails one of the checks 2 to 4 answers that check's status, and changes nothing else. -/
theorem exec_checksum_refused {status : Status} (h : s.link.receiver = .awaitChecksum p) (idle : s.link.sending = none)
    (refused : frameEffect p v s.awaitCode = refuse status s.awaitCode) :
    exec (.dataCharacter v) s = .next (s.answered status []) := by
  have taken := (dataCharacter_checksum v h).trans (takeRequest_idle (frameEffect p v) (s := s.awaitCode) idle)
  rw [refused] at taken
  exact congrArg Host.Outcome.next taken

theorem frameEffect_checksum (differs : p.sum ≠ v) : frameEffect p v s = refuse .checksum s :=
  if_pos differs

theorem frameEffect_error {status : Status} (agrees : p.sum = v) (he : decodeRequest p.code p.body = .error status)
    (known : status = .unknown ∨ status = .length) : frameEffect p v s = refuse status s := by
  rw [frameEffect, if_neg (not_not.mpr agrees), he]
  rcases known with rfl | rfl <;> rfl

theorem frameEffect_long {i : Instr} (agrees : p.sum = v) (hd : decodeRequest p.code p.body = .ok i)
    (long : 250 < p.length.toNat) : frameEffect p v s = refuse .length s := by
  rw [frameEffect, if_neg (not_not.mpr agrees), hd]
  exact if_neg (Nat.not_le.mpr long)

theorem frameEffect_request {i : Instr} (agrees : p.sum = v) (hd : decodeRequest p.code p.body = .ok i)
    (short : p.length.toNat ≤ 250) : frameEffect p v = requestEffect i := by
  funext s
  rw [frameEffect, if_neg (not_not.mpr agrees), hd]
  exact if_pos short

/-- The checksum character of a frame that spells a request does what the request does, also while a response is being
sent. -/
theorem exec_checksum_request {i : Instr} (h : s.link.receiver = .awaitChecksum p) (agrees : p.sum = v)
    (hd : decodeRequest p.code p.body = .ok i) (short : p.length.toNat ≤ 250) :
    exec (.dataCharacter v) s = exec i s.awaitCode := by
  rw [exec_request i (encodeRequest_of_decode hd), ← frameEffect_request agrees hd short]
  exact congrArg Host.Outcome.next (dataCharacter_checksum v h)

end

/-- Settles O33: each check of R184 that fails makes the frame's effect a refusal, and with none failing the effect is
the request's own. -/
theorem checksumCharacterTakesRequest : Obligations.ChecksumCharacterTakesRequest := by
  intro v s p waits idle
  refine ⟨fun differs => ?checksum, fun agrees he => ?unknown, fun agrees he => ?length,
    fun i agrees hd long => ?long, fun i agrees hd short => ?request⟩
  case checksum => exact exec_checksum_refused waits idle (frameEffect_checksum differs)
  case unknown => exact exec_checksum_refused waits idle (frameEffect_error agrees he (.inl rfl))
  case length => exact exec_checksum_refused waits idle (frameEffect_error agrees he (.inr rfl))
  case long => exact exec_checksum_refused waits idle (frameEffect_long agrees hd long)
  case request => exact exec_checksum_request waits agrees hd short

/-- Settles O34: check 1 of R184 comes before the effect of a request is looked at, so that it does not matter what the
effect is. -/
theorem overrunDiscardsRequest : Obligations.OverrunDiscardsRequest := by
  refine ⟨fun c s request busy => ?row, fun v p s waits busy => ?character⟩
  case row => rw [exec_request c request, takeRequest_busy _ busy]
  case character =>
    have taken := takeRequest_busy (frameEffect p v) (s := s.awaitCode) busy
    exact congrArg Host.Outcome.next ((dataCharacter_checksum v waits).trans taken)

/-! ### A request's frame is read back (R195, R198, R199) -/

theorem decodeRequest_writeStation (sid : BitVec 16) {settings : List Setting}
    (h : settingsWellFormed settings = true) :
    decodeRequest 0x13 (bytes16 sid ++ encodeSettings settings) = .ok (.writeStation sid settings) := by
  have read := readSettings_encode settings _ h (length_le_encodeSettings settings)
  simp [decodeRequest, bytes16, read, join16_bytes]

theorem decodeRequest_admit {a : AdmitBody} (h : a.coefficients.wellFormed = true) :
    decodeRequest 0x14 a.encode = .ok (.admitStation a) := by
  simp [decodeRequest, readAdmit_encode a h]

theorem decodeRequest_ackAttention (sid : BitVec 16) {kinds : List Byte} (h : kinds.length ≤ 3) :
    decodeRequest 0x16 (bytes16 sid ++ kinds) = .ok (.ackAttention sid kinds) := by
  simp [decodeRequest, bytes16, h, join16_bytes]

/-- The three bodies of variable shape have their own readers; every other body is read field by field. -/
theorem decodeRequest_encode {i : Instr} {code : Byte} {body : List Byte} (w : i.wellFormed = true)
    (h : encodeRequest i = some (code, body)) : decodeRequest code body = .ok i := by
  cases i
  case writeStation sid settings =>
    cases h
    simp only [Instr.wellFormed, settingsSpelled, Bool.and_eq_true] at w
    exact decodeRequest_writeStation sid w.1
  case admitStation a => cases h; exact decodeRequest_admit w
  case ackAttention sid kinds => cases h; exact decodeRequest_ackAttention sid (of_decide_eq_true w)
  all_goals cases h <;> simp [decodeRequest, bytes16, bytes32, bytes48, DescriptorBlock.encode, join16_bytes,
    join32_bytes, join48_bytes]

end Sys2Proof.Machine
end

section
/-! A request's frame, received character by character, against the request as one command (R183, R184, R195; log entry
2). -/

namespace Sys2Proof.Machine

/-! ### Running commands that wait in the queue -/

/-- A run of the part, over the model's own state. -/
def runFor (n : Nat) (s : State) : Host.Outcome State Fault Refusal := Host.Core.run Sys2Proof.core n s

/-- A data character at the front of the queue is taken, and the run goes on. -/
theorem runFor_dataCharacter (k : Nat) (v : Byte) (s : State) (rest : List Instr) :
    runFor (k + 1) { s with pending := .dataCharacter v :: rest } =
      runFor k (dataCharacter v { s with pending := rest }) := rfl

/-! ### The characters of a frame (R183) -/

/-- The partial request that a code and a length begin. -/
def PartialRequest.begun (code length : Byte) : PartialRequest := ⟨code, length, [], 0, code + length⟩

/-- The partial request after a list of body characters, all of them kept. -/
def PartialRequest.extended (p : PartialRequest) (body : List Byte) : PartialRequest :=
  { p with body := p.body ++ body, received := p.received + body.length, sum := p.sum + sumBytes body }

theorem PartialRequest.extended_nil (p : PartialRequest) : p.extended [] = p := by
  simp [PartialRequest.extended, sumBytes]

theorem PartialRequest.extended_cons (p : PartialRequest) (b : Byte) (body : List Byte) (room : p.body.length < 250) :
    (p.more b).extended body = p.extended (b :: body) := by
  simp [PartialRequest.extended, PartialRequest.more, bodyCapacity, room, sumBytes, BitVec.add_assoc, Nat.add_assoc,
    Nat.add_comm 1]

/-- A code and a length leave the receiver with an empty partial request of that length. -/
theorem runFor_header (k : Nat) (code length : Byte) {s : State} (h : s.link.receiver = .awaitCode)
    (rest : List Instr) :
    runFor (k + 2) { s with pending := .dataCharacter code :: .dataCharacter length :: rest } =
      runFor k (State.setReceiver { s with pending := rest } (PartialRequest.begun code length).awaiting) := by
  have first : dataCharacter code { s with pending := .dataCharacter length :: rest } =
      State.setReceiver { s with pending := .dataCharacter length :: rest } (.awaitLength code code) :=
    dataCharacter_code code h
  have second : runFor (k + 1)
      (State.setReceiver { s with pending := .dataCharacter length :: rest } (.awaitLength code code)) =
      runFor k (dataCharacter length (State.setReceiver { s with pending := rest } (.awaitLength code code))) :=
    runFor_dataCharacter k length (s.setReceiver (.awaitLength code code)) rest
  rw [runFor_dataCharacter, first, second, dataCharacter_length length rfl]
  rfl

/-- The body characters that are still missing, where there is room for them, bring the receiver to the checksum. -/
theorem runFor_body (k : Nat) (body : List Byte) (p : PartialRequest) (s : State) (rest : List Instr)
    (count : p.received + body.length = p.length.toNat) (room : p.body.length + body.length ≤ 250) :
    runFor (body.length + k) (State.setReceiver { s with pending := body.map Instr.dataCharacter ++ rest } p.awaiting) =
      runFor k (State.setReceiver { s with pending := rest } (.awaitChecksum (p.extended body))) := by
  induction body generalizing p with
  | nil =>
    have complete : p.awaiting = .awaitChecksum p := if_pos count
    rw [complete, p.extended_nil, List.length_nil, Nat.zero_add]
    rfl
  | cons b body ih =>
    rw [List.length_cons] at count room
    have missing : p.awaiting = .body p := if_neg (by omega)
    have kept : p.body.length < 250 := by omega
    have taken :
        dataCharacter b (State.setReceiver { s with pending := body.map Instr.dataCharacter ++ rest } (.body p)) =
          State.setReceiver { s with pending := body.map Instr.dataCharacter ++ rest } (p.more b).awaiting :=
      dataCharacter_body b rfl
    have onwards := ih (p.more b) (by simp only [PartialRequest.more]; omega)
      (by simp [PartialRequest.more, bodyCapacity, kept]; omega)
    rw [p.extended_cons b body kept] at onwards
    rw [missing, List.length_cons, Nat.add_right_comm, ← onwards, ← taken]
    exact runFor_dataCharacter _ b (s.setReceiver (.body p)) _

/-! ### A request and its frame (R195) -/

/-- The body of a well-formed request fits the frame; only three kinds of body vary in length. -/
theorem length_encodeRequest {i : Instr} {code : Byte} {body : List Byte} (w : i.wellFormed = true)
    (h : encodeRequest i = some (code, body)) : body.length ≤ 250 := by
  cases i
  case writeStation sid settings => exact Laws.WireSize.writeStation sid settings w code body h
  case admitStation a => exact Laws.WireSize.admitStation a w code body h
  case ackAttention sid kinds => exact Laws.WireSize.ackAttention sid kinds w code body h
  all_goals cases h <;> simp [bytes16, bytes32, bytes48, DescriptorBlock.encode]

/-- The receiver's partial request when a whole frame but its checksum has been received. -/
def PartialRequest.ofFrame (code : Byte) (body : List Byte) : PartialRequest :=
  (PartialRequest.begun code (BitVec.ofNat 8 body.length)).extended body

/-- The checksum of a frame is the sum that the receiver has run up. -/
theorem map_requestFrame (code : Byte) (body : List Byte) (rest : List Instr) :
    (requestFrame code body).map Instr.dataCharacter ++ rest =
      .dataCharacter code :: .dataCharacter (BitVec.ofNat 8 body.length) ::
        (body.map Instr.dataCharacter ++ .dataCharacter (PartialRequest.ofFrame code body).sum :: rest) := by
  simp [requestFrame, PartialRequest.ofFrame, PartialRequest.begun, PartialRequest.extended, BitVec.add_assoc]

theorem toNat_lengthByte {body : List Byte} (h : body.length ≤ 250) :
    (BitVec.ofNat 8 body.length).toNat = body.length := by
  rw [BitVec.toNat_ofNat]
  exact Nat.mod_eq_of_lt (by omega)

/-- A frame up to its checksum: code and length, then the body. -/
theorem runFor_frame (k : Nat) (code : Byte) {body : List Byte} {s : State} (h : s.link.receiver = .awaitCode)
    (short : body.length ≤ 250) (rest : List Instr) :
    runFor (body.length + k + 2)
        { s with
          pending := .dataCharacter code :: .dataCharacter (BitVec.ofNat 8 body.length) ::
            (body.map Instr.dataCharacter ++ rest) } =
      runFor k (State.setReceiver { s with pending := rest } (.awaitChecksum (.ofFrame code body))) := by
  have count : (0 : Nat) + body.length = (BitVec.ofNat 8 body.length).toNat := by
    rw [Nat.zero_add, toNat_lengthByte short]
  have room : ([] : List Byte).length + body.length ≤ 250 := by rwa [List.length_nil, Nat.zero_add]
  exact (runFor_header _ code _ h _).trans (runFor_body k body (.begun code _) s rest count room)

/-- The last character of a frame, after the others have been received, takes the request the frame spells. -/
theorem runFor_checksum {i : Instr} {p : PartialRequest} (s : State) (rest : List Instr)
    (hd : decodeRequest p.code p.body = .ok i) (short : p.length.toNat ≤ 250) :
    runFor 1 (State.setReceiver { s with pending := .dataCharacter p.sum :: rest } (.awaitChecksum p)) =
      exec i (State.awaitCode { s with pending := rest }) := by
  change exec (.dataCharacter p.sum) (State.setReceiver { s with pending := rest } (.awaitChecksum p)) = _
  exact exec_checksum_request (s := State.setReceiver { s with pending := rest } (.awaitChecksum p)) rfl rfl hd short

theorem awaitCode_of_waiting {s : State} (h : s.link.receiver = .awaitCode) : s.awaitCode = s := by
  rw [State.awaitCode, ← h]

/-- Settles O55: the frame's characters up to the checksum give the receiver the code and the body of the request, and
the checksum character takes it. -/
theorem requestRowIsItsCharacters : Obligations.RequestRowIsItsCharacters := by
  intro i code body rest s w h waiting
  have short := length_encodeRequest w h
  have count : (requestFrame code body).length = body.length + 1 + 2 := by simp [requestFrame]
  have received := runFor_frame 1 code waiting short (.dataCharacter (PartialRequest.ofFrame code body).sum :: rest)
  have taken := runFor_checksum (p := .ofFrame code body) s rest (decodeRequest_encode w h)
    ((toNat_lengthByte short).trans_le short)
  rw [awaitCode_of_waiting (s := { s with pending := rest }) waiting] at taken
  rw [map_requestFrame, count]
  exact received.trans taken

end Sys2Proof.Machine
end

section
/-! What the Host Link answers: the response, NOTICE, and STATUS (R185, R186, R189, R190, R195, R198). -/

namespace Sys2Proof.Machine

/-! ### The response (R185, R186, R195) -/

theorem statusByte_eq (x : Status) : statusByte x = Claims.statusCode x := by cases x <;> rfl

/-- The sum of a list of characters is their sum as numbers, mod 256. -/
theorem toNat_sumBytes (l : List Byte) : (sumBytes l).toNat = (l.map BitVec.toNat).sum % 256 := by
  induction l with
  | nil => rfl
  | cons b l ih => rw [sumBytes, BitVec.toNat_add, ih, List.map_cons, List.sum_cons, Nat.add_mod_mod]

theorem toNat_flagByte (l : Link) : l.flagByte.toNat =
    (if l.framing then 1 else 0) + (if l.parity then 2 else 0) + (if l.overrun then 4 else 0) := by
  unfold Link.flagByte
  cases l.framing <;> cases l.parity <;> cases l.overrun <;> rfl

/-- The checksum of a response is the sum of status, flags, length and body, mod 256. -/
theorem toNat_responseSum (status flags : Byte) (body : List Byte) :
    (status + (flags + (byteOfNat body.length + sumBytes body))).toNat =
      (status.toNat + flags.toNat + body.length + (body.map BitVec.toNat).sum) % 256 := by
  simp only [BitVec.toNat_add, toNat_sumBytes, byteOfNat, BitVec.toNat_ofNat]
  omega

/-- Settles O35: the fields of the response are the arguments of `responseFrame`, and its flags and checksum are read as
numbers. -/
theorem responseCarriesFlagsAndEnds : Obligations.ResponseCarriesFlagsAndEnds := by
  refine ⟨fun s => rfl, fun u status body => ⟨rfl, rfl, rfl, rfl, u.link.flagByte, _, ?frame, toNat_flagByte u.link,
    toNat_responseSum _ _ body⟩⟩
  case frame =>
    rw [← statusByte_eq]
    rfl

/-! ### NOTICE (R190) -/

theorem someStarved_iff (s : State) : s.someStarved = true ↔ ∃ c, (s.map c).state = .starved := by
  simp [State.someStarved, State.map, Vector.any_eq, Fin.exists_iff]

theorem counts_some_iff (n : AttentionCounts) :
    n.some = true ↔ 0 < n.staleNew ∨ 0 < n.programmeDone ∨ 0 < n.saturated := by
  simp [AttentionCounts.some, or_assoc]

theorem flagPending_iff (l : Link) :
    l.flagPending = true ↔ l.framing = true ∨ l.parity = true ∨ l.overrun = true := by
  simp [Link.flagPending, or_assoc]

/-- Settles O36: NOTICE is the disjunction of six conditions, each read by its own lemma. -/
theorem noticeConditions : Obligations.NoticeConditions := by
  intro s
  simp only [State.notice, Bool.or_eq_true, Bool.not_eq_true', List.isEmpty_eq_false_iff, counts_some_iff,
    someStarved_iff, flagPending_iff, or_assoc]

/-! ### STATUS (R126, R189, R198) -/

/-- The records of the table in a state, counted by their slots. -/
theorem countState_eq (s : State) (x : RecordState) :
    countState s x = ((List.finRange 1024).filter fun i => (s.station i).state = x).length := by
  have table : s.stations.toList = (List.finRange 1024).map s.station := by
    refine List.ext_getElem (by simp) fun n _ _ => ?_
    simp [State.station]
  rw [countState, table, List.countP_map, List.countP_eq_length_filter]
  rfl

theorem engineBytes_eq (e : Engine) : engineBytes e = Claims.engineField e := by
  unfold engineBytes Claims.engineField
  cases e.state with
  | idle => exact congrArg (List.cons 0) (unsigned16_eq 0)
  | live => cases e.channel <;> exact congrArg (List.cons 1) (unsigned16_eq _)
  | settling => cases e.slot <;> exact congrArg (List.cons 2) (unsigned16_eq _)

/-- Settles O37: the status block is the statement's, field by field, and the flag is cleared in the state the request
leaves. -/
theorem statusReportsAndClearsOverflow : Obligations.StatusReportsAndClearsOverflow := by
  intro s idle
  refine exec_accepted (Option.some_ne_none _) idle ?_
  rw [requestEffect, statusRequest, statusBlock]
  simp only [countState_eq, unsigned16_eq, engineBytes_eq, List.map_cons, List.map_nil, List.flatMap_cons,
    List.flatMap_nil, List.append_nil, List.append_assoc]
  rfl

end Sys2Proof.Machine
end

section
/-! The formats of the requests: the code and body of a request against the request they spell (R195 to R199). -/

namespace Sys2Proof.Machine

/-- Settles O54: a request is read back from its code and body, and its body fits the frame; for both, only WRITE STATION,
ADMIT STATION and ACK ATTENTION need the premise that the command is well formed. -/
theorem requestsDecodeAsEncoded : Obligations.RequestsDecodeAsEncoded := by
  intro i code body w h
  have decoded : decodeRequest code body = .ok i := decodeRequest_encode w h
  have short : body.length ≤ 250 := length_encodeRequest w h
  exact ⟨decoded, short⟩

end Sys2Proof.Machine
end

section
/-! The queue of commands: a step takes its front command, and what a command does leaves the queue alone (log
entry 1). -/

namespace Sys2Proof.Machine

/-! ### A step (log entry 1) -/

/-- Settles O1: a step is defined by the two forms of the queue. -/
theorem stepTakesFrontCommand : Obligations.StepTakesFrontCommand := by
  refine ⟨fun c rest s waiting => ?_, fun s empty => ?_⟩
  · rw [step, waiting]
  · rw [step, empty]

/-! ### Requests -/

/-- A request's effect leaves the queue of commands as it was, whatever the state. -/
def KeepsQueue (effect : State → Reply × State) : Prop := ∀ s, (effect s).2.pending = s.pending

theorem refuse_keepsQueue (status : Status) : KeepsQueue (refuse status) := fun _ => rfl

/-- A request on a record keeps the queue if what it does on each slot does; a refused SID changes nothing. -/
theorem withSid_keepsQueue {act : Slot → State → Reply × State} (h : ∀ i, KeepsQueue (act i)) (v : BitVec 16) :
    KeepsQueue (withSid v act) := by
  intro s
  unfold withSid
  split
  · rfl
  · split
    · rfl
    · exact h _ s

/-- A request on a channel keeps the queue if what it does on each channel does. -/
theorem withChannel_keepsQueue {act : Channel → State → Reply × State} (h : ∀ c, KeepsQueue (act c)) (v : Byte) :
    KeepsQueue (withChannel v act) := by
  intro s
  unfold withChannel
  split
  · exact h _ s
  · rfl

/-! #### Station records (R21 to R28, R172 to R175) -/

theorem lookupRequest_keepsQueue (v : BitVec 16) : KeepsQueue (lookupRequest v) :=
  withSid_keepsQueue (fun _ _ => rfl) v

theorem lookupSlotRequest_keepsQueue (v : BitVec 16) : KeepsQueue (lookupSlotRequest v) := by
  intro s
  unfold lookupSlotRequest
  split <;> rfl

theorem scanRequest_keepsQueue (v : BitVec 16) (kind : Byte) : KeepsQueue (scanRequest v kind) := by
  intro s
  unfold scanRequest
  split
  · split <;> rfl
  · rfl

theorem writeStationAt_keepsQueue (l : List Setting) (i : Slot) : KeepsQueue (writeStationAt l i) := by
  intro s
  unfold writeStationAt
  split
  · split
    · rfl
    · split <;> rfl
  · rfl

theorem writeStationRequest_keepsQueue (v : BitVec 16) (l : List Setting) : KeepsQueue (writeStationRequest v l) := by
  intro s
  unfold writeStationRequest
  split
  · split
    · exact withSid_keepsQueue (writeStationAt_keepsQueue l) v s
    · rfl
  · rfl

theorem admitFromProbe_pending (i : Slot) (p : Probe) (s : State) : (admitFromProbe i p s).pending = s.pending :=
  (requestCorrection_frame i _).pending

theorem admitChecked_keepsQueue (a : Admission) : KeepsQueue (admitChecked a) := by
  intro s
  unfold admitChecked
  split
  · rfl
  · split
    · rfl
    · split
      · rfl
      · split
        · rfl
        · exact admitFromProbe_pending _ _ _

theorem admitRequest_keepsQueue (body : AdmitBody) : KeepsQueue (admitRequest body) := by
  intro s
  unfold admitRequest
  split
  · split
    · rfl
    · exact admitChecked_keepsQueue _ s
  · rfl

theorem retireRecord_frame (i : Slot) (s : State) : EngineFrame s (retireRecord i s) := by
  unfold retireRecord
  split
  · exact (becomeFree_frame i s).toEngineFrame
  · exact (becomeFree_frame i s).toEngineFrame.trans (releaseEngine_frame _ _)
  · exact (setStation_frame _ _ _).toEngineFrame

theorem retireRequest_keepsQueue (v : BitVec 16) : KeepsQueue (retireRequest v) := by
  intro s
  unfold retireRequest
  split
  · rfl
  · split
    · rfl
    · next i _ =>
      exact (retireRecord_frame i _).pending.trans (retireIdentity_stations _ i s).pending

theorem ackAttentionAt_keepsQueue (kinds : List Byte) (i : Slot) : KeepsQueue (ackAttentionAt kinds i) := by
  intro s
  unfold ackAttentionAt
  split
  · rfl
  · exact (dropKinds_frame i _ s).pending

theorem ackAttentionRequest_keepsQueue (v : BitVec 16) (kinds : List Byte) :
    KeepsQueue (ackAttentionRequest v kinds) := by
  intro s
  unfold ackAttentionRequest
  split
  · exact withSid_keepsQueue (ackAttentionAt_keepsQueue kinds) v s
  · rfl

/-! #### Programmes, corrections and probes (R123, R124, R129, R131, R136, R137, R157) -/

theorem armProgrammeRequest_keepsQueue (v : BitVec 16) (vector : Byte) :
    KeepsQueue (armProgrammeRequest v vector) := by
  refine withSid_keepsQueue (fun i s => ?_) v
  split <;> rfl

theorem disarmProgrammeRequest_keepsQueue (v : BitVec 16) : KeepsQueue (disarmProgrammeRequest v) :=
  withSid_keepsQueue (fun _ _ => rfl) v

theorem setDescriptorRequest_keepsQueue (index : Byte) (block : DescriptorBlock) :
    KeepsQueue (setDescriptorRequest index block) := by
  intro s
  unfold setDescriptorRequest
  split <;> rfl

theorem readDescriptorRequest_keepsQueue (index : Byte) : KeepsQueue (readDescriptorRequest index) := by
  intro s
  unfold readDescriptorRequest
  split <;> rfl

theorem takeCorrectionRequest_keepsQueue : KeepsQueue takeCorrectionRequest := by
  intro s
  unfold takeCorrectionRequest
  split
  · rfl
  · exact (takeEntry_frame _ _ s).pending

theorem probesRequest_keepsQueue (position : Byte) : KeepsQueue (probesRequest position) := by
  intro s
  unfold probesRequest
  split <;> rfl

theorem dismissRequest_keepsQueue (token : Token) : KeepsQueue (dismissRequest token) := by
  intro s
  unfold dismissRequest
  split <;> rfl

/-! #### Maps, channels and time (R31, R34, R47 to R57) -/

theorem mapOpenRequest_keepsQueue (ch : Byte) (start stop : Tick) : KeepsQueue (mapOpenRequest ch start stop) := by
  refine withChannel_keepsQueue (fun c s => ?_) ch
  split <;> rfl

theorem appendGrant_keepsQueue (c : Channel) (g : Grant) : KeepsQueue (appendGrant c g) := by
  intro s
  unfold appendGrant
  split
  · rfl
  · rfl
  · split_ifs <;> rfl

theorem mapGrantRequest_keepsQueue (ch : Byte) (start : Tick) (length sid : BitVec 16) (kind : Byte) :
    KeepsQueue (mapGrantRequest ch start length sid kind) := by
  refine withChannel_keepsQueue (fun c s => ?_) ch
  split
  · rfl
  · exact appendGrant_keepsQueue c _ s

theorem mapCloseRequest_keepsQueue (ch : Byte) : KeepsQueue (mapCloseRequest ch) := by
  refine withChannel_keepsQueue (fun c s => ?_) ch
  split
  · rfl
  · rfl
  · split
    · rfl
    · split
      · split
        · exact (promote_frame c _ s).pending
        · rfl
      · rfl

theorem mapAbandonRequest_keepsQueue (ch : Byte) : KeepsQueue (mapAbandonRequest ch) :=
  withChannel_keepsQueue (fun _ _ => rfl) ch

theorem channelOnRequest_keepsQueue (ch : Byte) : KeepsQueue (channelOnRequest ch) := by
  refine withChannel_keepsQueue (fun c s => ?_) ch
  split
  · rfl
  · split
    · rfl
    · split
      · rfl
      · rfl
      · split
        · exact (promote_frame c _ _).pending
        · rfl

theorem channelOffRequest_keepsQueue (ch : Byte) : KeepsQueue (channelOffRequest ch) :=
  withChannel_keepsQueue (fun c s => (resetChannel_frame c s).pending) ch

theorem timeLoadRequest_keepsQueue (value : Tick) : KeepsQueue (timeLoadRequest value) := by
  intro s
  unfold timeLoadRequest
  split <;> rfl

theorem setParameterRequest_keepsQueue (setting value : Byte) : KeepsQueue (setParameterRequest setting value) := by
  intro s
  unfold setParameterRequest
  split
  · exact (testAll_frame _).pending
  · split <;> rfl

/-! ### Every command completes (log entry 1) -/

/-- Every request keeps the queue; a command that is no request is refused. -/
theorem requestEffect_keepsQueue (i : Instr) : KeepsQueue (requestEffect i) := by
  cases i with
  | status => exact fun _ => rfl
  | lookup v => exact lookupRequest_keepsQueue v
  | lookupSlot v => exact lookupSlotRequest_keepsQueue v
  | scan v kind => exact scanRequest_keepsQueue v kind
  | writeStation v l => exact writeStationRequest_keepsQueue v l
  | admitStation body => exact admitRequest_keepsQueue body
  | retire v => exact retireRequest_keepsQueue v
  | ackAttention v kinds => exact ackAttentionRequest_keepsQueue v kinds
  | armProgramme v vector => exact armProgrammeRequest_keepsQueue v vector
  | disarmProgramme v => exact disarmProgrammeRequest_keepsQueue v
  | takeCorrection => exact takeCorrectionRequest_keepsQueue
  | probes position => exact probesRequest_keepsQueue position
  | dismiss token => exact dismissRequest_keepsQueue token
  | mapOpen ch start stop => exact mapOpenRequest_keepsQueue ch start stop
  | mapGrant ch start length sid kind => exact mapGrantRequest_keepsQueue ch start length sid kind
  | mapClose ch => exact mapCloseRequest_keepsQueue ch
  | mapAbandon ch => exact mapAbandonRequest_keepsQueue ch
  | channelOn ch => exact channelOnRequest_keepsQueue ch
  | channelOff ch => exact channelOffRequest_keepsQueue ch
  | setDescriptor index block => exact setDescriptorRequest_keepsQueue index block
  | readDescriptor index => exact readDescriptorRequest_keepsQueue index
  | timeLoad value => exact timeLoadRequest_keepsQueue value
  | timeRead => exact fun _ => rfl
  | setParameter setting value => exact setParameterRequest_keepsQueue setting value
  | _ => exact refuse_keepsQueue .unknown

/-- A request keeps the queue whether it is taken or discarded: the rest is the link's (R184, R185). -/
theorem takeRequest_pending {effect : State → Reply × State} (h : KeepsQueue effect) (s : State) :
    (takeRequest effect s).pending = s.pending := by
  unfold takeRequest
  split
  · rfl
  · exact h s

theorem frameEffect_keepsQueue (p : PartialRequest) (v : Byte) : KeepsQueue (frameEffect p v) := by
  intro s
  unfold frameEffect
  split
  · rfl
  · split
    · rfl
    · rfl
    · split
      · exact requestEffect_keepsQueue _ s
      · rfl

theorem dataCharacter_pending (v : Byte) (s : State) : (dataCharacter v s).pending = s.pending := by
  unfold dataCharacter
  split
  · rfl
  · rfl
  · rfl
  · rfl
  · rfl
  · next p _ => exact takeRequest_pending (frameEffect_keepsQueue p v) s.awaitCode

theorem faultyCharacter_pending (f : CharacterFault) (s : State) : (faultyCharacter f s).pending = s.pending := by
  unfold faultyCharacter
  split <;> rfl

theorem sync_pending (s : State) : (sync s).pending = s.pending := by
  unfold sync
  split <;> rfl

/-- A pass completion keeps the queue on a SETTLING engine and on any other (log entry 6). -/
theorem passCompletion_pending (e : EngineId) (s : State) :
    (if (s.engine e).state = .settling then completePass e s else s).pending = s.pending := by
  split
  · exact (completePass_frame e s).pending
  · rfl

/-- A command that is a request completes, and keeps the queue. -/
theorem request_completes {i : Instr} (h : encodeRequest i ≠ none) (s : State) :
    ∃ t, exec i s = .next t ∧ t.pending = s.pending :=
  ⟨_, exec_request i h s, takeRequest_pending (requestEffect_keepsQueue i) s⟩

/-- Settles O2: part reset restores the queue, each event's frame holds it, and every other command is a request. -/
theorem commandsAlwaysComplete : Obligations.CommandsAlwaysComplete := by
  intro c s
  cases c with
  | partReset straps => exact ⟨_, rfl, rfl⟩
  | powerUp straps => exact ⟨_, rfl, rfl⟩
  | tick => exact ⟨_, rfl, (takeRaised_frame maxRaised s).pending⟩
  | sync => exact ⟨_, rfl, sync_pending s⟩
  | windowOpen c => exact ⟨_, rfl, (takeIfRaised_frame (.windowOpen c) s).pending⟩
  | windowClose c => exact ⟨_, rfl, (takeIfRaised_frame (.windowClose c) s).pending⟩
  | graceExpiry c => exact ⟨_, rfl, (takeIfRaised_frame (.graceExpiry c) s).pending⟩
  | mapEnd c => exact ⟨_, rfl, (takeIfRaised_frame (.mapEnd c) s).pending⟩
  | detect c phase => exact ⟨_, rfl, (detect_frame c phase s).pending⟩
  | preambleDone c => exact ⟨_, rfl, (preambleDone_frame c s).pending⟩
  | symbol c sample reference => exact ⟨_, rfl, (symbol_frame c sample reference s).pending⟩
  | claim c token valid => exact ⟨_, rfl, (claim_frame c token valid s).pending⟩
  | burstEnd c power frequency => exact ⟨_, rfl, (burstEnd_frame c power frequency s).pending⟩
  | passCompletion e => exact ⟨_, rfl, passCompletion_pending e s⟩
  | addressCharacter v => exact ⟨_, rfl, rfl⟩
  | dataCharacter v => exact ⟨_, rfl, dataCharacter_pending v s⟩
  | faultyCharacter f => exact ⟨_, rfl, faultyCharacter_pending f s⟩
  | responseEnd => exact ⟨_, rfl, rfl⟩
  | _ => exact request_completes (by exact Option.some_ne_none _) s

end Sys2Proof.Machine
end

section
/-! Time events as commands: without their time point reached there is no event (R30; log entry 3). -/

namespace Sys2Proof.Machine

/-- An event whose time point is absent or elsewhere than the counter is not raised, so nothing is taken. -/
theorem takeIfRaised_unreached {x : TimeEvent} {s : State} {point : Option Tick} (awaits : x.raised s = reached s point)
    (h : point ≠ some s.counter) : takeIfRaised x s = s :=
  if_neg (by rwa [awaits, reached, decide_eq_true_iff])

/-- Settles O12: each of the four commands takes its event only when its own time point stands reached. -/
theorem timeEventsOnlyWhenReached : Obligations.TimeEventsOnlyWhenReached := by
  intro c s
  exact ⟨fun h => congrArg Host.Outcome.next (takeIfRaised_unreached (x := .windowOpen c) rfl h),
    fun h => congrArg Host.Outcome.next (takeIfRaised_unreached (x := .windowClose c) rfl h),
    fun h => congrArg Host.Outcome.next (takeIfRaised_unreached (x := .graceExpiry c) rfl h),
    fun h => congrArg Host.Outcome.next (takeIfRaised_unreached (x := .mapEnd c) rfl h)⟩

end Sys2Proof.Machine
end
